-- ==== Sys2Proof/Word.lean ====
section
/-! DEFINITION. The word types of the block: a byte (R9), a 32-bit value (R8, R81) and a sequence of
exactly four bytes in stream order (R55, R110). -/

namespace Sys2Proof

/-- R9: "A byte is 8 bits." -/
abbrev Byte := BitVec 8

/-- A 32-bit value, bits numbered 31 (most significant) down to 0 (R8). -/
abbrev Word := BitVec 32

/-- Four bytes in stream order; `b0` is nearest the buffer front (R55, R56). -/
structure Bytes4 where
  b0 : Byte
  b1 : Byte
  b2 : Byte
  b3 : Byte
deriving DecidableEq, Repr

/-- The four bytes as a byte sequence, in stream order. -/
def Bytes4.toList (b : Bytes4) : List Byte := [b.b0, b.b1, b.b2, b.b3]

end Sys2Proof
end

