-- ==== Sys2Proof/Config.lean ====
section
/-! DEFINITION. What an implementation fixes (the OPEN parameters of R7) and the free values the spec
leaves open. The FIXED constants of R7 and the two tables stand in Machine/Constants.lean. -/

namespace Sys2Proof

/-- The opaque I/O-failure value of SRCERR (R184, R202). R7: ERR_W is OPEN and "the model may take any
type E in its place"; a natural number holds a value of every width. DESIGN CHOICE, log 6. -/
abbrev Err := Nat

namespace Config

/-- The OPEN parameters of R7 that the model takes as data. -/
structure Params where
  /-- BUF_CAP, the largest number of bytes the Pending Buffer can hold; `none` is unbounded (R7, R63). -/
  bufCap : Option Nat
deriving DecidableEq, Repr

/-- R7: BUF_CAP is "OPEN, default unbounded". -/
def defaultParams : Params := ⟨none⟩

/-- The value `first_chmode` holds after RESET, which R34 and R181 leave unspecified (U16: any value).
A free value: it has no body. Log 4. -/
opaque freeChmode : Nat → BitVec 2

/-- The value of the output `out_err` while out_kind is not 3, which R31 leaves unspecified (U17: any
value). A free value: it has no body. Log 5. -/
opaque freeOutErr : Nat → Err

end Config
end Sys2Proof
end

