-- ==== Sys2Proof/Syntax.lean ====
section
/-! DEFINITION. The operations of the block, one constructor per row of spec/opcode_table.json (R96), and
the coded form in which an operation is offered to the block: a port cycle (R190), a chunk (R180), a
stream unit in one of the three stream formats (R80), or a block of R1 driven by hand (log 13). -/

namespace Sys2Proof

/-- The terminal phase operand of TERMINATE (R205: "P ∈ {`Done`, `Failed`}"). -/
inductive EndPhase where
  | done
  | failed
deriving DecidableEq, Repr

/-- The outcome operand of TERMINATE (R205). `count` carries no number: "n is the current value of count". -/
inductive EndOutcome where
  | count
  | formatError
  | ioFailure (e : Err)
deriving DecidableEq, Repr

/-- One constructor per row of the operation table. The operand of a header row is the 32-bit header
value of R81, that of SYNCSAFE and TAGSKIP the four size bytes in stream order. -/
inductive Instr where
  /-- HDR_VALID: a valid frame header met at the buffer front (R82, R113, R153 to R155). -/
  | hdrValid (h : Word)
  /-- HDR_INVALID_FIRST: an invalid header met in phase AwaitingFirstFrameHeader (R153). -/
  | hdrInvalidFirst (h : Word)
  /-- HDR_INVALID_LATER: an invalid header met in phase ScanningFrames (R155). -/
  | hdrInvalidLater (h : Word)
  /-- HDR_LEN_RESERVED_BR0: a valid header with bitrateIndex 0 (R130, R91). -/
  | hdrLenReservedBr0 (h : Word)
  /-- HDR_LEN_RESERVED_BR15: a valid header with bitrateIndex 15 (R130, R91). -/
  | hdrLenReservedBr15 (h : Word)
  /-- HDR_LEN_RESERVED_SR3: a valid header with sampleRateIndex 3 (R130, R91). -/
  | hdrLenReservedSr3 (h : Word)
  /-- ID3_MAGIC: the 10 bytes of an ID3v2 tag header, less its fixed magic (R84). -/
  | id3Magic (tagVersion : BitVec 16) (tagFlags : Byte) (size : Bytes4)
  /-- VBR_XING: the VBR tag "Xing" at the marker offset (R86, R154). -/
  | vbrXing
  /-- VBR_INFO: the VBR tag "Info" at the marker offset (R86, R154). -/
  | vbrInfo
  /-- SYNCSAFE (R110). -/
  | syncsafe (b : Bytes4)
  /-- HDRDEC (R111). -/
  | hdrdec (h : Word)
  /-- HDRVALID, the function of R113 (the row HDR_VALID is `hdrValid`). -/
  | hdrIsValid (h : Word)
  /-- FRAMELEN (R130). -/
  | framelen (bitrateIndex : BitVec 4) (sampleRateIndex : BitVec 2) (padding : BitVec 1)
  /-- VBROFF (R132). -/
  | vbroff (channelMode : BitVec 2)
  /-- TAGSKIP (R133). -/
  | tagskip (b : Bytes4)
  /-- BITRATE, the table of R114. -/
  | bitrate (index : BitVec 4)
  /-- SAMPLERATE, the table of R115. -/
  | samplerate (index : BitVec 2)
  /-- ADVANCE (R150). -/
  | advance
  /-- STEP_ID3 (R152). -/
  | stepId3
  /-- STEP_FIRST (R153). -/
  | stepFirst
  /-- STEP_VBR (R154). -/
  | stepVbr
  /-- STEP_SCAN (R155). -/
  | stepScan
  /-- TERMINATE(P, o) (R205). -/
  | terminate (p : EndPhase) (o : EndOutcome)
  /-- RESET (R181). -/
  | reset
  /-- PUSH c (R182). -/
  | push (c : List Byte)
  /-- EOS (R183). -/
  | eos
  /-- SRCERR e (R184). -/
  | srcerr (e : Err)
  /-- BEAT_RESERVED: a port beat with in_kind = 3 (R190). -/
  | beatReserved
deriving DecidableEq, Repr

/-- The input signals of one clock cycle of the port (R190). -/
structure PortCycle where
  rst : Bool
  inValid : Bool
  inKind : BitVec 2
  inData : Byte
  inErr : Err
deriving DecidableEq, Repr

/-- The stream formats of R80. The header format is split by the two phases that R96 tells apart. -/
inductive UnitFormat where
  | hdr32First
  | hdr32Later
  | id3hdr80
  | tag32
deriving DecidableEq, Repr

/-- The combinational functions, tables and state-machine operations of R1, each under the name of its
row: which of them an operand word goes to is wiring, not bits (R96, log 13). -/
inductive Block where
  | syncsafe
  | hdrdec
  | hdrvalid
  | framelen
  | vbroff
  | tagskip
  | bitrate
  | samplerate
  | advance
  | stepId3
  | stepFirst
  | stepVbr
  | stepScan
  | terminate
deriving DecidableEq, Repr

/-- One operation in coded form. -/
inductive Code where
  /-- One cycle of the port (R190). -/
  | cycle (p : PortCycle)
  /-- A chunk of the transaction-level interface (R180); ports do not show it (R191). -/
  | chunk (c : List Byte)
  /-- The bytes of a stream unit in one of the formats of R80. -/
  | unit (f : UnitFormat) (bytes : List Byte)
  /-- A block driven directly by an operand word `w` and a failure value `e` (log 13). -/
  | block (b : Block) (w : Word) (e : Err)
deriving DecidableEq, Repr

/-- The operations the source can issue (R180) and the reserved beat (R190). -/
def Instr.isEvent : Instr → Bool
  | .reset | .push _ | .eos | .srcerr _ | .beatReserved => true
  | .hdrValid _ | .hdrInvalidFirst _ | .hdrInvalidLater _ | .hdrLenReservedBr0 _
  | .hdrLenReservedBr15 _ | .hdrLenReservedSr3 _ | .id3Magic _ _ _ | .vbrXing | .vbrInfo
  | .syncsafe _ | .hdrdec _ | .hdrIsValid _ | .framelen _ _ _ | .vbroff _ | .tagskip _
  | .bitrate _ | .samplerate _ | .advance | .stepId3 | .stepFirst | .stepVbr | .stepScan
  | .terminate _ _ => false

/-- What the source can put on its side of the interface: a port cycle or a chunk (R180, R190). -/
def Code.isHostInput : Code → Bool
  | .cycle _ | .chunk _ => true
  | .unit _ _ | .block _ _ _ => false

end Sys2Proof
end

