-- ==== Sys2Proof/WellFormed.lean ====
section
/-! DEFINITION. Which terms of Instr the spec's encodings can write. A header row's operand must have the
fields its row fixes (R81, R82, R91), read here by division on the header's number so that the check
does not lean on the decoder's masks; where rows of the table overlap, a header belongs to the most
specific row (log 12). TERMINATE's two operands must go together (R200). -/

namespace Sys2Proof

/-- `v[hi:lo]` of R8 as a natural number: the `width` bits of `h` from bit `lo` upwards. -/
def fieldAt (h : Word) (lo width : Nat) : Nat := h.toNat / 2 ^ lo % 2 ^ width

/-- R81, R113: sync = 0x7FF, version = 3 and layer = 1. -/
def headerFieldsValid (h : Word) : Bool :=
  fieldAt h 21 11 == 0x7FF && fieldAt h 19 2 == 3 && fieldAt h 17 2 == 1

/-- R91: sampleRateIndex = 3 is reserved. -/
def sampleRateReserved (h : Word) : Bool := fieldAt h 10 2 == 3

/-- R91: bitrateIndex 0 and 15 are reserved. -/
def bitrateReserved (h : Word) : Bool := fieldAt h 12 4 == 0 || fieldAt h 12 4 == 15

/-- R200: `Count` goes with `Done`, `FormatError` and `IoFailure` with `Failed`. -/
def endOperandsMatch : EndPhase → EndOutcome → Bool
  | .done, .count => true
  | .failed, .formatError => true
  | .failed, .ioFailure _ => true
  | .done, .formatError => false
  | .done, .ioFailure _ => false
  | .failed, .count => false

/-- The terms that an encoding of the spec (or, for operations without one, of log 13) can write. -/
def Instr.wellFormed : Instr → Bool
  | .hdrValid h => headerFieldsValid h && !sampleRateReserved h && !bitrateReserved h
  | .hdrInvalidFirst h => !headerFieldsValid h
  | .hdrInvalidLater h => !headerFieldsValid h
  | .hdrLenReservedBr0 h => headerFieldsValid h && !sampleRateReserved h && fieldAt h 12 4 == 0
  | .hdrLenReservedBr15 h => headerFieldsValid h && !sampleRateReserved h && fieldAt h 12 4 == 15
  | .hdrLenReservedSr3 h => headerFieldsValid h && sampleRateReserved h
  | .terminate p o => endOperandsMatch p o
  | .id3Magic _ _ _ | .vbrXing | .vbrInfo | .syncsafe _ | .hdrdec _ | .hdrIsValid _
  | .framelen _ _ _ | .vbroff _ | .tagskip _ | .bitrate _ | .samplerate _ | .advance | .stepId3
  | .stepFirst | .stepVbr | .stepScan | .reset | .push _ | .eos | .srcerr _ | .beatReserved => true

end Sys2Proof
end

