-- ==== Sys2Proof/Decode.lean ====
section
/-! DEFINITION. Byte order and field extraction (R55, R81, R88, R89), the recognisers of the operation
table as rows of mask and match (R82, R84, R86, R96), the decoder from coded form to Instr, total and
rejecting by name, and the encoder back. -/

namespace Sys2Proof

/-! ## Byte order and fields -/

/-- R55: `BE32(b) = (b[0] << 24) | (b[1] << 16) | (b[2] << 8) | b[3]`. -/
def be32 (b : Bytes4) : Word :=
  (b.b0.setWidth 32 <<< 24) ||| (b.b1.setWidth 32 <<< 16) ||| (b.b2.setWidth 32 <<< 8) |||
    b.b3.setWidth 32

/-- The four bytes of a word in stream order, the inverse of BE32 (R81: byte 0 holds bits 31 to 24). -/
def wordBytes (w : Word) : Bytes4 :=
  ⟨w.extractLsb' 24 8, w.extractLsb' 16 8, w.extractLsb' 8 8, w.extractLsb' 0 8⟩

/-- R81: `sync`, bits 31 to 21. -/
def hdrSync (h : Word) : BitVec 11 := h.extractLsb' 21 11
/-- R81: `version`, bits 20 to 19. -/
def hdrVersion (h : Word) : BitVec 2 := h.extractLsb' 19 2
/-- R81: `layer`, bits 18 to 17. -/
def hdrLayer (h : Word) : BitVec 2 := h.extractLsb' 17 2
/-- R81: `bitrateIndex`, bits 15 to 12. -/
def hdrBitrateIndex (h : Word) : BitVec 4 := h.extractLsb' 12 4
/-- R81: `sampleRateIndex`, bits 11 to 10. -/
def hdrSampleRateIndex (h : Word) : BitVec 2 := h.extractLsb' 10 2
/-- R81: `padding`, bit 9. -/
def hdrPadding (h : Word) : BitVec 1 := h.extractLsb' 9 1
/-- R81: `channelMode`, bits 7 to 6. -/
def hdrChannelMode (h : Word) : BitVec 2 := h.extractLsb' 6 2

/-- Four bytes from a byte sequence of that length. -/
def bytes4? : List Byte → Option Bytes4
  | [a, b, c, d] => some ⟨a, b, c, d⟩
  | _ => none

/-! ## The recognisers of the operation table -/

/-- A row's mask and match (R96). -/
structure PatternRow where
  mask : Word
  value : Word
deriving DecidableEq, Repr

/-- A word belongs to a row when its masked bits are the row's match. -/
def PatternRow.hits (r : PatternRow) (h : Word) : Bool := h &&& r.mask == r.value

/-- HDR_VALID (R82). -/
def rowHdrValid : PatternRow := ⟨0xFFFE0000, 0xFFFA0000⟩
/-- HDR_LEN_RESERVED_BR0. -/
def rowReservedBr0 : PatternRow := ⟨0xFFFEF000, 0xFFFA0000⟩
/-- HDR_LEN_RESERVED_BR15. -/
def rowReservedBr15 : PatternRow := ⟨0xFFFEF000, 0xFFFAF000⟩
/-- HDR_LEN_RESERVED_SR3. -/
def rowReservedSr3 : PatternRow := ⟨0xFFFE0C00, 0xFFFA0C00⟩
/-- VBR_XING (R86). -/
def rowXing : PatternRow := ⟨0xFFFFFFFF, 0x58696E67⟩
/-- VBR_INFO (R86). -/
def rowInfo : PatternRow := ⟨0xFFFFFFFF, 0x496E666F⟩

/-- R84: the magic "ID3" is 0x49 0x44 0x33. -/
def id3MagicBytes : List Byte := [0x49, 0x44, 0x33]

/-- The bytes of an ID3v2 tag header (R84), byte 0 first. -/
def id3HeaderBytes (tagVersion : BitVec 16) (tagFlags : Byte) (size : Bytes4) : List Byte :=
  id3MagicBytes ++ [tagVersion.extractLsb' 8 8, tagVersion.extractLsb' 0 8, tagFlags] ++ size.toList

/-- The most specific row a header value belongs to (log 12); `invalid` is the row of the phase for a
value that is no valid header (R96). -/
def headerInstr (invalid : Word → Instr) (h : Word) : Instr :=
  if rowReservedSr3.hits h then .hdrLenReservedSr3 h
  else if rowReservedBr0.hits h then .hdrLenReservedBr0 h
  else if rowReservedBr15.hits h then .hdrLenReservedBr15 h
  else if rowHdrValid.hits h then .hdrValid h
  else invalid h

/-! ## The decoder -/

/-- Why a coded form is no operation. -/
inductive Reject where
  /-- A port cycle with neither reset nor a beat: no event (R190). -/
  | idleCycle
  /-- The bytes of a unit are not as many as its format has (R80). -/
  | wrongLength
  /-- An ID3HDR80 unit without the magic: no tag (R85). -/
  | noMagic
  /-- A TAG32 unit other than "Xing" and "Info": no tag (R86). -/
  | noTag
  /-- TERMINATE with a phase code that is not 4 or 5, or a kind code 0 (R205). -/
  | noSuchEnd
  /-- TERMINATE with an outcome of the other terminal phase (R200). -/
  | mismatchedEnd
deriving DecidableEq, Repr

/-- What the decoder answers. -/
inductive Decoded where
  | instr (i : Instr)
  | rejected (r : Reject)
deriving DecidableEq, Repr

/-- A port cycle (R190): `rst` overrides any beat; a transferred beat is the event of its kind. -/
def decodeCycle (p : PortCycle) : Decoded :=
  if p.rst then .instr .reset
  else if !p.inValid then .rejected .idleCycle
  else if p.inKind = 0 then .instr (.push [p.inData])
  else if p.inKind = 1 then .instr .eos
  else if p.inKind = 2 then .instr (.srcerr p.inErr)
  else .instr .beatReserved

/-- An ID3v2 tag header: recognised by the magic alone (R84, R85). -/
def decodeId3 : List Byte → Decoded
  | [m0, m1, m2, v0, v1, f, s0, s1, s2, s3] =>
    if [m0, m1, m2] = id3MagicBytes then .instr (.id3Magic (v0 ++ v1) f ⟨s0, s1, s2, s3⟩)
    else .rejected .noMagic
  | _ => .rejected .wrongLength

/-- A VBR tag (R86). -/
def decodeTag (w : Word) : Decoded :=
  if rowXing.hits w then .instr .vbrXing
  else if rowInfo.hits w then .instr .vbrInfo
  else .rejected .noTag

/-- A stream unit in a named format (R80). -/
def decodeUnit (f : UnitFormat) (bytes : List Byte) : Decoded :=
  match f with
  | .id3hdr80 => decodeId3 bytes
  | .hdr32First =>
    match bytes4? bytes with
    | some b => .instr (headerInstr .hdrInvalidFirst (be32 b))
    | none => .rejected .wrongLength
  | .hdr32Later =>
    match bytes4? bytes with
    | some b => .instr (headerInstr .hdrInvalidLater (be32 b))
    | none => .rejected .wrongLength
  | .tag32 =>
    match bytes4? bytes with
    | some b => decodeTag (be32 b)
    | none => .rejected .wrongLength

/-- TERMINATE's operands: bits 2 to 0 the code of P (R21), bits 9 to 8 the kind code of o (R25), the
failure value on its own wire (log 13). -/
def decodeEnd (w : Word) (e : Err) : Decoded :=
  let p := w.extractLsb' 0 3
  let k := w.extractLsb' 8 2
  if p = 4 then
    if k = 1 then .instr (.terminate .done .count)
    else if k = 0 then .rejected .noSuchEnd
    else .rejected .mismatchedEnd
  else if p = 5 then
    if k = 2 then .instr (.terminate .failed .formatError)
    else if k = 3 then .instr (.terminate .failed (.ioFailure e))
    else if k = 0 then .rejected .noSuchEnd
    else .rejected .mismatchedEnd
  else .rejected .noSuchEnd

/-- A block driven directly. The operand patterns of the functions are the table's; a table's index
stands in the low bits (log 13). -/
def decodeBlock (b : Block) (w : Word) (e : Err) : Decoded :=
  match b with
  | .syncsafe => .instr (.syncsafe (wordBytes w))
  | .hdrdec => .instr (.hdrdec w)
  | .hdrvalid => .instr (.hdrIsValid w)
  | .framelen => .instr (.framelen (hdrBitrateIndex w) (hdrSampleRateIndex w) (hdrPadding w))
  | .vbroff => .instr (.vbroff (hdrChannelMode w))
  | .tagskip => .instr (.tagskip (wordBytes w))
  | .bitrate => .instr (.bitrate (w.extractLsb' 0 4))
  | .samplerate => .instr (.samplerate (w.extractLsb' 0 2))
  | .advance => .instr .advance
  | .stepId3 => .instr .stepId3
  | .stepFirst => .instr .stepFirst
  | .stepVbr => .instr .stepVbr
  | .stepScan => .instr .stepScan
  | .terminate => decodeEnd w e

/-- The decoder, total on every coded form. -/
def decode : Code → Decoded
  | .cycle p => decodeCycle p
  | .chunk c => .instr (.push c)
  | .unit f bytes => decodeUnit f bytes
  | .block b w e => decodeBlock b w e

/-! ## The encoder -/

/-- A cycle in which the source offers one beat (R190). -/
def beatCycle (kind : BitVec 2) (data : Byte) (e : Err) : PortCycle := ⟨false, true, kind, data, e⟩

/-- A cycle with `rst` = 1 (R190). -/
def resetCycle : PortCycle := ⟨true, false, 0, 0, 0⟩

/-- TERMINATE's operand word (log 13). -/
def endWord : EndPhase → EndOutcome → Word
  | p, o =>
    (match p with
      | .done => 4
      | .failed => 5) |||
    (match o with
      | .count => 1
      | .formatError => 2
      | .ioFailure _ => 3) <<< 8

/-- The failure value TERMINATE carries. -/
def endErr : EndOutcome → Err
  | .ioFailure e => e
  | .count | .formatError => 0

/-- The coded form of an operation. -/
def encode : Instr → Code
  | .hdrValid h => .unit .hdr32Later (wordBytes h).toList
  | .hdrInvalidFirst h => .unit .hdr32First (wordBytes h).toList
  | .hdrInvalidLater h => .unit .hdr32Later (wordBytes h).toList
  | .hdrLenReservedBr0 h => .unit .hdr32Later (wordBytes h).toList
  | .hdrLenReservedBr15 h => .unit .hdr32Later (wordBytes h).toList
  | .hdrLenReservedSr3 h => .unit .hdr32Later (wordBytes h).toList
  | .id3Magic v f s => .unit .id3hdr80 (id3HeaderBytes v f s)
  | .vbrXing => .unit .tag32 [0x58, 0x69, 0x6E, 0x67]
  | .vbrInfo => .unit .tag32 [0x49, 0x6E, 0x66, 0x6F]
  | .syncsafe b => .block .syncsafe (be32 b) 0
  | .hdrdec h => .block .hdrdec h 0
  | .hdrIsValid h => .block .hdrvalid h 0
  | .framelen bi si p =>
    .block .framelen
      ((bi.setWidth 32 <<< 12) ||| (si.setWidth 32 <<< 10) ||| (p.setWidth 32 <<< 9)) 0
  | .vbroff cm => .block .vbroff (cm.setWidth 32 <<< 6) 0
  | .tagskip b => .block .tagskip (be32 b) 0
  | .bitrate k => .block .bitrate (k.setWidth 32) 0
  | .samplerate k => .block .samplerate (k.setWidth 32) 0
  | .advance => .block .advance 0 0
  | .stepId3 => .block .stepId3 0 0
  | .stepFirst => .block .stepFirst 0 0
  | .stepVbr => .block .stepVbr 0 0
  | .stepScan => .block .stepScan 0 0
  | .terminate p o => .block .terminate (endWord p o) (endErr o)
  | .reset => .cycle resetCycle
  | .push c => .chunk c
  | .eos => .cycle (beatCycle 1 0 0)
  | .srcerr e => .cycle (beatCycle 2 0 e)
  | .beatReserved => .cycle (beatCycle 3 0 0)

/-! ## Words as the operation table numbers them -/

/-- The coded form of a word of `nbits` bits: a port beat of in_kind `w[1:0]` with its other signals 0
(8 bits), a VBR tag or a frame header, most significant byte first (32 bits), an ID3v2 tag header,
byte 0 in bits 79 to 72 (80 bits). Any other length is no word of the table: a unit of no bytes, which
the decoder rejects. -/
def tableCode (nbits w : Nat) : Code :=
  if nbits ≤ 8 then .cycle (beatCycle (BitVec.ofNat 2 w) 0 0)
  else if nbits = 32 then
    let h := BitVec.ofNat 32 w
    .unit (if rowXing.hits h || rowInfo.hits h then .tag32 else .hdr32First) (wordBytes h).toList
  else if nbits = 80 then
    .unit .id3hdr80 ((List.range 10).map fun k => BitVec.ofNat 8 (w / 2 ^ (8 * (9 - k))))
  else .unit .hdr32First []

/-- The instruction the decoder reads from a word as spec/opcode_table.json numbers its bits. -/
def decodeTableWord (nbits w : Nat) : Option Instr :=
  match decode (tableCode nbits w) with
  | .instr i => some i
  | .rejected _ => none

end Sys2Proof
end

