-- ==== Sys2Proof/Machine/State.lean ====
section
/-! DEFINITION. The state of the block (R20 to R27), the parameters it is built with (R7), the model's own
fields (logs 1, 2, 4), the reasons a step can stop, and the state right after reset (R34). -/

namespace Sys2Proof.Machine

/-- The Scan Phase (R21); codes 6 and 7 are never held (U21), so there are six constructors. -/
inductive Phase where
  | awaitingId3
  | awaitingFirstFrameHeader
  | awaitingVbrDecision
  | scanningFrames
  | done
  | failed
deriving DecidableEq, Repr

/-- The Scan Result (R25): `noResult` is the spec's `None`. -/
inductive ScanResult where
  | noResult
  | count (n : BitVec 32)
  | formatError
  | ioFailure (e : Err)
deriving DecidableEq, Repr

/-- The result of FRAMELEN (R130): `Invalid` or a number of bytes. -/
inductive FrameLength where
  | invalid
  | bytes (n : Nat)
deriving DecidableEq, Repr

/-- The record HDRDEC returns (R111). -/
structure HeaderFields where
  syncOk : Bool
  versionOk : Bool
  layerOk : Bool
  bitrateIndex : BitVec 4
  sampleRateIndex : BitVec 2
  padding : BitVec 1
  channelMode : BitVec 2
deriving DecidableEq, Repr

/-- Which of the three results of R151 a step gave. -/
inductive StepKind where
  | moved
  | wait
  | ended
deriving DecidableEq, Repr

/-- The value an operation with a result returned (the model's own, log 2). -/
inductive OpResult where
  | nothing
  | size (n : BitVec 28)
  | header (f : HeaderFields)
  | valid (b : Bool)
  | length (l : FrameLength)
  | offset (n : Nat)
  | skip (n : Nat)
  | tableEntry (n : Nat)
  | stepped (k : StepKind)
deriving DecidableEq, Repr

/-- The state of the block and of what the source has offered to it. -/
structure State where
  /-- Scan Phase (R21). -/
  phase : Phase
  /-- Pending Buffer, front first (R22). -/
  buf : List Byte
  /-- Frame Count, COUNT_W = 32 bits (R23). -/
  count : BitVec 32
  /-- `first_chmode`, the channel mode of the first frame header (R24). -/
  firstChmode : BitVec 2
  /-- Scan Result (R25). -/
  outcome : ScanResult
  /-- The stop signal to the source (R26). -/
  stop : Bool
  /-- The stream offset of the buffer front, a ghost (R27). -/
  pos : Nat
  /-- What the source has offered and the block has not taken, next first (the model's own, log 1). -/
  inbox : List Code
  /-- What the last directly run operation with a result returned (the model's own, log 2). -/
  opResult : OpResult
  /-- The counter the free values are applied to (the model's own, log 4). -/
  freeCtr : Nat
  /-- The OPEN parameters the block is built with; no operation changes them (R7, log 7). -/
  params : Config.Params
deriving DecidableEq, Repr

/-- Why the machine stops. Each is an access the spec calls undefined and never makes (R52, R53) or a
loop it says ends (R157); log 9. -/
inductive Fault where
  /-- BufRead with `off + n > |buf|` (R52), raised by the buffer reads of the steps. Safe: the model
  stops where the spec gives no value. -/
  | readPastEnd
  /-- Consume(n) with `n > |buf|` (R53), raised by the steps. Safe: the model stops where the spec
  gives no effect. -/
  | consumePastEnd
  /-- ADVANCE still moving after the number of steps R157 bounds it by, raised by ADVANCE. Safe: the
  model stops where the spec says this cannot be. -/
  | advanceUnfinished
deriving DecidableEq, Repr

/-- Why the model says nothing of a step. -/
inductive Refusal where
  /-- An operation with no meaning yet, named by its row; raised in Dispatch only. Safe. -/
  | notModelled (mnemonic : String)
  /-- PUSH of a chunk that would take `|buf|` past BUF_CAP (R51, R63: "a model refuses the run"),
  raised by Append. Safe. -/
  | bufCapExceeded
  /-- An increment of `count` from 2^32 - 1 (R23: "a model refuses such a stream"), raised where a frame
  is counted. Safe. -/
  | countOverflow
  /-- A step run in a phase that does not select it (R150, R151), raised by the four steps. Safe, log 11. -/
  | stepNotSelected
  /-- TERMINATE called from a terminal phase (R205: "Called only from a non-terminal phase"), raised by
  TERMINATE. Safe, log 11. -/
  | alreadyEnded
  /-- An offered coded form that is no operation, raised by step. Safe, log 13. -/
  | undecodable (r : Reject)
deriving DecidableEq, Repr

/-- The state after reset (R34). `firstChmode` is unspecified there: 0 is the model's choice (log 3). -/
def State.reset : State where
  phase := .awaitingId3
  buf := []
  count := 0
  firstChmode := 0
  outcome := .noResult
  stop := false
  pos := 0
  inbox := []
  opResult := .nothing
  freeCtr := 0
  params := Config.defaultParams

/-- The outcome of an operation that answers `α` or stops. -/
abbrev Res (α : Type) := Host.Outcome α Fault Refusal

end Sys2Proof.Machine
end

