-- ==== Sys2Proof/Machine/Constants.lean ====
section
/-! DEFINITION. The fixed constants of R7, the two tables (R114, R115), and the two strings that go with
FormatError (R201). -/

namespace Sys2Proof.Machine

/-- `HDR_BYTES` (R7). -/
def hdrBytes : Nat := 4
/-- `ID3_HDR_BYTES` (R7). -/
def id3HdrBytes : Nat := 10
/-- `SIDE_MONO` (R7). -/
def sideMono : Nat := 17
/-- `SIDE_OTHER` (R7). -/
def sideOther : Nat := 32
/-- `VBR_TAG_BYTES` (R7). -/
def vbrTagBytes : Nat := 4
/-- `VBR_WAIT_EXTRA` (R7, C1). -/
def vbrWaitExtra : Nat := 12
/-- `FRAME_COEFF` (R7). -/
def frameCoeff : Nat := 144

/-- R114: bits per second by bitrate index; 0 is the reserved marker. -/
def bitrateTable : List Nat :=
  [0, 32000, 40000, 48000, 56000, 64000, 80000, 96000,
   112000, 128000, 160000, 192000, 224000, 256000, 320000, 0]

/-- R115: Hz by sample-rate index; 0 is the reserved marker. -/
def sampleRateTable : List Nat := [44100, 48000, 32000, 0]

/-- "Xing" (R86). -/
def xingBytes : Bytes4 := ⟨0x58, 0x69, 0x6E, 0x67⟩
/-- "Info" (R86). -/
def infoBytes : Bytes4 := ⟨0x49, 0x6E, 0x66, 0x6F⟩

/-- R201: the fixed message of FormatError, a constant of the interface and not a signal (D18). -/
def formatErrorMessage : String := "The document is not a valid MPEG Version 1 Layer III file."

/-- R201: the fixed parameter of FormatError. -/
def formatErrorParameter : String := "document"

end Sys2Proof.Machine
end

