-- ==== Sys2Proof/Machine/Ops.lean ====
section
/-! DEFINITION. The operations every meaning is built from: sequencing, the buffer primitives Append,
BufRead and Consume (R51 to R53), counting a frame (R23), the terminal transition TERMINATE (R205), which
is this hardware's taking of an exception, and RESET of the block (R181), the only way back (R210). -/

namespace Sys2Proof.Machine

/-- Run `f` on what `r` answers; a stop stays that stop. -/
def andThen {α β : Type} (r : Res α) (f : α → Res β) : Res β :=
  match r with
  | .next a => f a
  | .fault e => .fault e
  | .refused e => .refused e

/-! ## The Pending Buffer -/

/-- Whether a buffer of `n` bytes is within BUF_CAP (R22, R63). -/
def fitsCap (p : Config.Params) (n : Nat) : Bool :=
  match p.bufCap with
  | none => true
  | some cap => decide (n ≤ cap)

/-- The legal form of the buffer: `|buf| ≤ BUF_CAP` (R20). A list of bytes has no other form (log 16). -/
def Memory.wf (p : Config.Params) (buf : List Byte) : Bool := fitsCap p buf.length

/-- Append(c) (R51). -/
def append (c : List Byte) (s : State) : Res State :=
  if fitsCap s.params (s.buf.length + c.length) then .next { s with buf := s.buf ++ c }
  else .refused .bufCapExceeded

/-- BufRead(off, n) (R52): `buf[off .. off+n)`. -/
def bufRead (buf : List Byte) (off n : Nat) : Res (List Byte) :=
  if off + n ≤ buf.length then .next ((buf.drop off).take n) else .fault .readPastEnd

/-- BufRead(off, 4) as four bytes. -/
def bufRead4 (buf : List Byte) (off : Nat) : Res Bytes4 :=
  andThen (bufRead buf off 4) fun bs =>
    match bytes4? bs with
    | some b => .next b
    | none => .fault .readPastEnd

/-- Consume(n) (R53). -/
def consume (n : Nat) (s : State) : Res State :=
  if n ≤ s.buf.length then .next { s with buf := s.buf.drop n, pos := s.pos + n }
  else .fault .consumePastEnd

/-! ## The frame count -/

/-- `count <- count + 1` (R23, R155); from 2^32 - 1 the run is refused (D5, U19). -/
def countFrame (s : State) : Res State :=
  if s.count = 0xFFFFFFFF#32 then .refused .countOverflow
  else .next { s with count := s.count + 1 }

/-! ## The terminal transition and reset -/

/-- The terminal phases (R21). -/
def Phase.isTerminal : Phase → Bool
  | .done | .failed => true
  | .awaitingId3 | .awaitingFirstFrameHeader | .awaitingVbrDecision | .scanningFrames => false

/-- TERMINATE(P, o) (R205): `outcome <- o; phase <- P; stop <- 1; buf <- empty`. What is not named is
left as it is. -/
def terminate (p : Phase) (o : ScanResult) (s : State) : State :=
  { s with outcome := o, phase := p, stop := true, buf := [] }

/-- `TERMINATE(Done, Count(count))` (R155, R183). -/
def endWithCount (s : State) : State := terminate .done (.count s.count) s

/-- `TERMINATE(Failed, FormatError)` (R153, R201). -/
def endWithFormatError (s : State) : State := terminate .failed .formatError s

/-- `TERMINATE(Failed, IoFailure(e))` (R184, R202). -/
def endWithIoFailure (e : Err) (s : State) : State := terminate .failed (.ioFailure e) s

/-- RESET (R181). `first_chmode` becomes unspecified: a free value (log 4). The source's side (`inbox`)
and the parameters the block is built with are not the block's to reset (logs 1, 7); the model's own
`opResult` is cleared (log 2). -/
def resetBlock (s : State) : State :=
  { s with
    phase := .awaitingId3
    buf := []
    count := 0
    firstChmode := Config.freeChmode s.freeCtr
    outcome := .noResult
    stop := false
    pos := 0
    opResult := .nothing
    freeCtr := s.freeCtr + 1 }

/-! ## The results of a step -/

/-- The three results of a step (R151). WAIT carries no state: "A step never changes state and also
waits". -/
inductive StepOut where
  | moved (t : State)
  | wait
  | ended (t : State)

/-- The state after a step run by itself from `s`, with its kind recorded in `opResult` (log 2). -/
def settleStep (s : State) : StepOut → State
  | .moved t => { t with opResult := .stepped .moved }
  | .wait => { s with opResult := .stepped .wait }
  | .ended t => { t with opResult := .stepped .ended }

/-- A step run by itself: what it answers, recorded. -/
def runAlone (r : Res StepOut) (s : State) : Res State :=
  andThen r fun o => .next (settleStep s o)

/-- The state with a result recorded; nothing of R20 is written (R112). -/
def withResult (r : OpResult) (s : State) : State := { s with opResult := r }

end Sys2Proof.Machine
end

