-- ==== Sys2Proof/Machine/Operands.lean ====
section
/-! DEFINITION. How operands are assembled from the bytes of the buffer (R88 to R90) and when a stream
unit is the one that stands at its place (R80, R87). -/

namespace Sys2Proof.Machine

/-- R88: `h = BE32(BufRead(0, 4))`. -/
def frontHeader (buf : List Byte) : Res Word :=
  andThen (bufRead4 buf 0) fun b => .next (be32 b)

/-- R89: the four size bytes of an ID3v2 tag header, `BufRead(6, 4)`. -/
def sizeBytes (buf : List Byte) : Res Bytes4 := bufRead4 buf 6

/-- R90: the bitrate-index operand selects its table entry; every index is in range. -/
def bitrateAt (k : BitVec 4) : Nat := bitrateTable.getD k.toNat 0

/-- R90: the sample-rate-index operand selects its table entry; every index is in range. -/
def sampleRateAt (k : BitVec 2) : Nat := sampleRateTable.getD k.toNat 0

/-- The four bytes of header `h` stand at the buffer front (R80, R81). -/
def headerAtFront (h : Word) (s : State) : Bool := s.buf.take 4 == (wordBytes h).toList

/-- The ten bytes of an ID3v2 tag header stand at the buffer front (R80, R84). -/
def tagAtFront (tagVersion : BitVec 16) (tagFlags : Byte) (size : Bytes4) (s : State) : Bool :=
  s.buf.take 10 == id3HeaderBytes tagVersion tagFlags size

end Sys2Proof.Machine
end

