-- ==== Sys2Proof/Machine/BitfieldDecoder.lean ====
section
/-! DEFINITION. The Bitfield Decoder (R110 to R116): SYNCSAFE, HDRDEC, HDRVALID and the two tables. Their
result depends on their operands alone and they write no state of R20 (R112). -/

namespace Sys2Proof.Machine

/-- The low seven bits of a byte, widened to 28 (R110: `zext_28(b[6:0])`). -/
def low7 (b : Byte) : BitVec 28 := (b.extractLsb' 0 7).setWidth 28

/-- SYNCSAFE (R110). -/
def syncsafe (b : Bytes4) : BitVec 28 :=
  (low7 b.b0 <<< 21) ||| (low7 b.b1 <<< 14) ||| (low7 b.b2 <<< 7) ||| low7 b.b3

/-- HDRDEC (R111). -/
def hdrdec (h : Word) : HeaderFields where
  syncOk := hdrSync h == 0x7FF
  versionOk := hdrVersion h == 3
  layerOk := hdrLayer h == 1
  bitrateIndex := hdrBitrateIndex h
  sampleRateIndex := hdrSampleRateIndex h
  padding := hdrPadding h
  channelMode := hdrChannelMode h

/-- HDRVALID (R113). -/
def hdrvalid (h : Word) : Bool := (hdrdec h).syncOk && (hdrdec h).versionOk && (hdrdec h).layerOk

/-- The meaning of SYNCSAFE (R110). -/
def execSyncsafe (b : Bytes4) (s : State) : Res State := .next (withResult (.size (syncsafe b)) s)

/-- The meaning of HDRDEC (R111). -/
def execHdrdec (h : Word) (s : State) : Res State := .next (withResult (.header (hdrdec h)) s)

/-- The meaning of HDRVALID (R113). -/
def execHdrIsValid (h : Word) (s : State) : Res State := .next (withResult (.valid (hdrvalid h)) s)

/-- The meaning of BITRATE (R114). -/
def execBitrate (k : BitVec 4) (s : State) : Res State :=
  .next (withResult (.tableEntry (bitrateAt k)) s)

/-- The meaning of SAMPLERATE (R115). -/
def execSamplerate (k : BitVec 2) (s : State) : Res State :=
  .next (withResult (.tableEntry (sampleRateAt k)) s)

end Sys2Proof.Machine
end

