-- ==== Sys2Proof/Machine/LengthCalculator.lean ====
section
/-! DEFINITION. The Length Calculator (R130 to R137): FRAMELEN, VBROFF, TAGSKIP. Natural numbers hold
every intermediate value (R134). -/

namespace Sys2Proof.Machine

/-- FRAMELEN (R130): the product first, one floor division, the padding last. -/
def framelen (bi : BitVec 4) (si : BitVec 2) (p : BitVec 1) : FrameLength :=
  if bitrateAt bi = 0 ∨ sampleRateAt si = 0 then .invalid
  else .bytes (frameCoeff * bitrateAt bi / sampleRateAt si + p.toNat)

/-- FRAMELEN(h) (R130): all three operands from one header. -/
def framelenOf (h : Word) : FrameLength :=
  framelen (hdrdec h).bitrateIndex (hdrdec h).sampleRateIndex (hdrdec h).padding

/-- VBROFF (R132). -/
def vbroff (cm : BitVec 2) : Nat := hdrBytes + (if cm = 3 then sideMono else sideOther)

/-- TAGSKIP (R133). -/
def tagskip (b : Bytes4) : Nat := id3HdrBytes + (syncsafe b).toNat

/-- The meaning of FRAMELEN (R130). -/
def execFramelen (bi : BitVec 4) (si : BitVec 2) (p : BitVec 1) (s : State) : Res State :=
  .next (withResult (.length (framelen bi si p)) s)

/-- The meaning of VBROFF (R132). -/
def execVbroff (cm : BitVec 2) (s : State) : Res State := .next (withResult (.offset (vbroff cm)) s)

/-- The meaning of TAGSKIP (R133). -/
def execTagskip (b : Bytes4) (s : State) : Res State := .next (withResult (.skip (tagskip b)) s)

end Sys2Proof.Machine
end

