-- ==== Sys2Proof/Machine/Scanner.lean ====
section
/-! DEFINITION. The Scanner State Machine (R150 to R158): the four phase steps, the driver ADVANCE, and
the meanings of their rows and of TERMINATE. -/

namespace Sys2Proof.Machine

/-! ## The four steps -/

/-- STEP_ID3 (R152). -/
def stepId3 (s : State) : Res StepOut :=
  if s.buf.length < id3HdrBytes then .next .wait
  else
    andThen (bufRead s.buf 0 3) fun magic =>
      if magic = id3MagicBytes then
        andThen (sizeBytes s.buf) fun size =>
          if s.buf.length < tagskip size then .next .wait
          else
            andThen (consume (tagskip size) s) fun t =>
              .next (.moved { t with phase := .awaitingFirstFrameHeader })
      else .next (.moved { s with phase := .awaitingFirstFrameHeader })

/-- A valid first header is accepted (R153): its channel mode is captured, nothing is consumed. -/
def acceptFirst (h : Word) (s : State) : State :=
  { s with firstChmode := hdrChannelMode h, phase := .awaitingVbrDecision }

/-- STEP_FIRST (R153). -/
def stepFirst (s : State) : Res StepOut :=
  if s.buf.length < hdrBytes then .next .wait
  else
    andThen (frontHeader s.buf) fun h =>
      if hdrvalid h then .next (.moved (acceptFirst h s))
      else .next (.ended (endWithFormatError s))

/-- The marker frame of header `h`, its tag already matched (R154): an Invalid length consumes nothing
(D11), a frame not yet whole waits (D12), a whole one is consumed and not counted. -/
def skipMarker (h : Word) (s : State) : Res StepOut :=
  match framelenOf h with
  | .invalid => .next (.moved { s with phase := .scanningFrames })
  | .bytes l =>
    if s.buf.length < l then .next .wait
    else andThen (consume l s) fun t => .next (.moved { t with phase := .scanningFrames })

/-- STEP_VBR (R154). -/
def stepVbr (s : State) : Res StepOut :=
  let off := vbroff s.firstChmode
  if s.buf.length < off + vbrWaitExtra then .next .wait
  else
    andThen (bufRead4 s.buf off) fun tag =>
      if tag = xingBytes ∨ tag = infoBytes then
        andThen (frontHeader s.buf) fun h => skipMarker h s
      else .next (.moved { s with phase := .scanningFrames })

/-- The frame of a valid header `h` in phase ScanningFrames (R155): an Invalid length ends the scan, a
frame not yet whole waits, a whole one is consumed and counted. -/
def scanFrame (h : Word) (s : State) : Res StepOut :=
  match framelenOf h with
  | .invalid => .next (.ended (endWithCount s))
  | .bytes l =>
    if s.buf.length < l then .next .wait
    else andThen (consume l s) fun t => andThen (countFrame t) fun u => .next (.moved u)

/-- STEP_SCAN (R155). -/
def stepScan (s : State) : Res StepOut :=
  if s.buf.length < hdrBytes then .next .wait
  else
    andThen (frontHeader s.buf) fun h =>
      if hdrvalid h then scanFrame h s else .next (.ended (endWithCount s))

/-! ## The driver -/

/-- The step the phase selects (R150); a terminal phase has none, and ADVANCE stops there. -/
def stepOfPhase (s : State) : Res StepOut :=
  match s.phase with
  | .awaitingId3 => stepId3 s
  | .awaitingFirstFrameHeader => stepFirst s
  | .awaitingVbrDecision => stepVbr s
  | .scanningFrames => stepScan s
  | .done => .next .wait
  | .failed => .next .wait

/-- ADVANCE's loop (R150), for at most `n` steps. -/
def advanceLoop : Nat → State → Res State
  | 0, _ => .fault .advanceUnfinished
  | n + 1, s =>
    andThen (stepOfPhase s) fun
      | .moved t => advanceLoop n t
      | .wait => .next s
      | .ended t => .next t

/-- R157: one call of ADVANCE runs at most `3 + floor(|buf| / 96) + 1` steps. -/
def advanceBound (s : State) : Nat := 3 + s.buf.length / 96 + 1

/-- ADVANCE (R150). -/
def advance (s : State) : Res State := advanceLoop (advanceBound s) s

/-! ## The meanings -/

/-- The step the phase selects, run by itself (R150); a terminal phase has none, and the block idles there
(R185, R205). -/
def runPhaseStep (s : State) : Res State :=
  if s.phase.isTerminal then .next s else runAlone (stepOfPhase s) s

/-- The meaning of ADVANCE (R150). -/
def execAdvance (s : State) : Res State := advance s

/-- A step run by itself needs the phase that selects it (R150, log 11). -/
def runInPhase (p : Phase) (step : State → Res StepOut) (s : State) : Res State :=
  if s.phase = p then runAlone (step s) s else .refused .stepNotSelected

/-- The meaning of STEP_ID3 (R152). -/
def execStepId3 (s : State) : Res State := runInPhase .awaitingId3 stepId3 s

/-- The meaning of STEP_FIRST (R153). -/
def execStepFirst (s : State) : Res State := runInPhase .awaitingFirstFrameHeader stepFirst s

/-- The meaning of STEP_VBR (R154). -/
def execStepVbr (s : State) : Res State := runInPhase .awaitingVbrDecision stepVbr s

/-- The meaning of STEP_SCAN (R155). -/
def execStepScan (s : State) : Res State := runInPhase .scanningFrames stepScan s

/-- The phase TERMINATE's operand names (R205). -/
def endPhase : EndPhase → Phase
  | .done => .done
  | .failed => .failed

/-- The outcome TERMINATE's operand names; "for Count(n), n is the current value of count" (R205). -/
def endResult (o : EndOutcome) (s : State) : ScanResult :=
  match o with
  | .count => .count s.count
  | .formatError => .formatError
  | .ioFailure e => .ioFailure e

/-- The meaning of TERMINATE (R205): "Called only from a non-terminal phase" (log 11). -/
def execTerminate (p : EndPhase) (o : EndOutcome) (s : State) : Res State :=
  if s.phase.isTerminal then .refused .alreadyEnded
  else .next (terminate (endPhase p) (endResult o s) s)

end Sys2Proof.Machine
end

