-- ==== Sys2Proof/Machine/Events.lean ====
section
/-! DEFINITION. The meanings of the host events (R180 to R192): RESET, PUSH, EOS, SRCERR and the reserved
port beat. -/

namespace Sys2Proof.Machine

/-- In a terminal phase PUSH, EOS and SRCERR change nothing (R185). -/
def unlessEnded (act : State → Res State) (s : State) : Res State :=
  if s.phase.isTerminal then .next s else act s

/-- The meaning of RESET (R181). -/
def execReset (s : State) : Res State := .next (resetBlock s)

/-- The meaning of PUSH c (R182): the whole chunk is appended, then ADVANCE runs. -/
def execPush (c : List Byte) (s : State) : Res State :=
  unlessEnded (fun s => andThen (append c s) advance) s

/-- The meaning of EOS (R183). -/
def execEos (s : State) : Res State := unlessEnded (fun s => .next (endWithCount s)) s

/-- The meaning of SRCERR e (R184). -/
def execSrcerr (e : Err) (s : State) : Res State :=
  unlessEnded (fun s => .next (endWithIoFailure e s)) s

/-- The meaning of BEAT_RESERVED (R190): "the beat is accepted and ignored". -/
def execBeatReserved (s : State) : Res State := .next s

end Sys2Proof.Machine
end

