-- ==== Sys2Proof/Machine/Units.lean ====
section
/-! DEFINITION. The meanings of the stream-format rows: what the block does when the unit stands at its
place in the current phase (R80, R91). Where it does not stand there it is not recognised (R85, R86, R93),
and the block does what its phase has it do with the bytes that are there (log 10). -/

namespace Sys2Proof.Machine

/-- Run `act` if the header `h` of the kind `kind` stands at the buffer front of a running scan; else the step
of the phase. -/
def meetHeader (kind : Bool) (h : Word) (act : Phase → Res StepOut) (s : State) : Res State :=
  if !s.phase.isTerminal && kind && headerAtFront h s then runAlone (act s.phase) s else runPhaseStep s

/-- The meaning of HDR_VALID (R113, R153 to R155). -/
def execHdrValid (h : Word) (s : State) : Res State :=
  meetHeader (hdrvalid h) h (fun
    | .awaitingFirstFrameHeader => .next (.moved (acceptFirst h s))
    | .awaitingVbrDecision => stepVbr s
    | .scanningFrames => scanFrame h s
    | .awaitingId3 => stepOfPhase s
    | .done => stepOfPhase s
    | .failed => stepOfPhase s) s

/-- The meaning of HDR_INVALID_FIRST (R153, R201): `TERMINATE(Failed, FormatError)`. -/
def execHdrInvalidFirst (h : Word) (s : State) : Res State :=
  meetHeader (!hdrvalid h) h (fun
    | .awaitingFirstFrameHeader => .next (.ended (endWithFormatError s))
    | .awaitingVbrDecision => stepOfPhase s
    | .scanningFrames => stepOfPhase s
    | .awaitingId3 => stepOfPhase s
    | .done => stepOfPhase s
    | .failed => stepOfPhase s) s

/-- The meaning of HDR_INVALID_LATER (R155, R203): `TERMINATE(Done, Count(count))`. -/
def execHdrInvalidLater (h : Word) (s : State) : Res State :=
  meetHeader (!hdrvalid h) h (fun
    | .scanningFrames => .next (.ended (endWithCount s))
    | .awaitingFirstFrameHeader => stepOfPhase s
    | .awaitingVbrDecision => stepOfPhase s
    | .awaitingId3 => stepOfPhase s
    | .done => stepOfPhase s
    | .failed => stepOfPhase s) s

/-- A valid header whose length is Invalid (R91): accepted in the first phase (R153 corner case a); in the
VBR phase, once `off + 12` bytes are buffered, left for STEP_SCAN with nothing consumed, tag or no tag
(R154, D11); in ScanningFrames the graceful end (R155, R203). -/
def reservedLength (h : Word) (s : State) : Phase → Res StepOut
  | .awaitingFirstFrameHeader => .next (.moved (acceptFirst h s))
  | .awaitingVbrDecision =>
    if s.buf.length < vbroff s.firstChmode + vbrWaitExtra then .next .wait
    else .next (.moved { s with phase := .scanningFrames })
  | .scanningFrames => .next (.ended (endWithCount s))
  | .awaitingId3 => stepOfPhase s
  | .done => stepOfPhase s
  | .failed => stepOfPhase s

/-- The meaning of HDR_LEN_RESERVED_BR0 (R91, R130). -/
def execHdrLenReservedBr0 (h : Word) (s : State) : Res State :=
  meetHeader (hdrvalid h && hdrBitrateIndex h == 0) h (reservedLength h s) s

/-- The meaning of HDR_LEN_RESERVED_BR15 (R91, R130). -/
def execHdrLenReservedBr15 (h : Word) (s : State) : Res State :=
  meetHeader (hdrvalid h && hdrBitrateIndex h == 15) h (reservedLength h s) s

/-- The meaning of HDR_LEN_RESERVED_SR3 (R91, R130). -/
def execHdrLenReservedSr3 (h : Word) (s : State) : Res State :=
  meetHeader (hdrvalid h && hdrSampleRateIndex h == 3) h (reservedLength h s) s

/-- The meaning of ID3_MAGIC (R84, R152): the tag is skipped whole once it is buffered whole. Anywhere but at
the stream's start it is no tag (R93). -/
def execId3Magic (tagVersion : BitVec 16) (tagFlags : Byte) (size : Bytes4) (s : State) : Res State :=
  if s.phase = .awaitingId3 ∧ tagAtFront tagVersion tagFlags size s then
    runAlone
      (if s.buf.length < tagskip size then .next .wait
       else andThen (consume (tagskip size) s) fun t =>
         .next (.moved { t with phase := .awaitingFirstFrameHeader })) s
  else runPhaseStep s

/-- A VBR tag stands at the marker offset, `off + 12` bytes are buffered and the phase is the VBR
decision (R87, R154). -/
def vbrTagMet (tag : Bytes4) (s : State) : Bool :=
  s.phase == .awaitingVbrDecision
    && decide (vbroff s.firstChmode + vbrWaitExtra ≤ s.buf.length)
    && (s.buf.drop (vbroff s.firstChmode)).take vbrTagBytes == tag.toList

/-- A VBR tag met at its offset (R154): the first frame is a marker frame. -/
def meetVbrTag (tag : Bytes4) (s : State) : Res State :=
  if vbrTagMet tag s then
    runAlone (andThen (frontHeader s.buf) fun h => skipMarker h s) s
  else runPhaseStep s

/-- The meaning of VBR_XING (R86, R154). -/
def execVbrXing (s : State) : Res State := meetVbrTag xingBytes s

/-- The meaning of VBR_INFO (R86, R154). -/
def execVbrInfo (s : State) : Res State := meetVbrTag infoBytes s

end Sys2Proof.Machine
end

