-- ==== Sys2Proof/Machine/Dispatch.lean ====
section
/-! DEFINITION. One arm per operation. -/

namespace Sys2Proof.Machine

def exec (i : Instr) (s : State) : Host.Outcome State Fault Refusal :=
  match i with
  | .hdrValid h => Sys2Proof.Machine.execHdrValid h s
  | .hdrInvalidFirst h => Sys2Proof.Machine.execHdrInvalidFirst h s
  | .hdrInvalidLater h => Sys2Proof.Machine.execHdrInvalidLater h s
  | .hdrLenReservedBr0 h => Sys2Proof.Machine.execHdrLenReservedBr0 h s
  | .hdrLenReservedBr15 h => Sys2Proof.Machine.execHdrLenReservedBr15 h s
  | .hdrLenReservedSr3 h => Sys2Proof.Machine.execHdrLenReservedSr3 h s
  | .id3Magic tagVersion tagFlags size => Sys2Proof.Machine.execId3Magic tagVersion tagFlags size s
  | .vbrXing => Sys2Proof.Machine.execVbrXing s
  | .vbrInfo => Sys2Proof.Machine.execVbrInfo s
  | .syncsafe b => Sys2Proof.Machine.execSyncsafe b s
  | .hdrdec h => Sys2Proof.Machine.execHdrdec h s
  | .hdrIsValid h => Sys2Proof.Machine.execHdrIsValid h s
  | .framelen bi si p => Sys2Proof.Machine.execFramelen bi si p s
  | .vbroff cm => Sys2Proof.Machine.execVbroff cm s
  | .tagskip b => Sys2Proof.Machine.execTagskip b s
  | .bitrate k => Sys2Proof.Machine.execBitrate k s
  | .samplerate k => Sys2Proof.Machine.execSamplerate k s
  | .advance => Sys2Proof.Machine.execAdvance s
  | .stepId3 => Sys2Proof.Machine.execStepId3 s
  | .stepFirst => Sys2Proof.Machine.execStepFirst s
  | .stepVbr => Sys2Proof.Machine.execStepVbr s
  | .stepScan => Sys2Proof.Machine.execStepScan s
  | .terminate p o => Sys2Proof.Machine.execTerminate p o s
  | .reset => Sys2Proof.Machine.execReset s
  | .push c => Sys2Proof.Machine.execPush c s
  | .eos => Sys2Proof.Machine.execEos s
  | .srcerr e => Sys2Proof.Machine.execSrcerr e s
  | .beatReserved => Sys2Proof.Machine.execBeatReserved s

end Sys2Proof.Machine
end

