-- ==== Sys2Proof/Machine/Fetch.lean ====
section
/-! DEFINITION. Taking the next offered operation from the source (R12, log 1), and putting a unit where
the block meets it (log 15). -/

namespace Sys2Proof.Machine

/-- The next coded form and the state with it taken. The free-value counter moves on, so that two steps
never share a free value (log 4). -/
def fetch (s : State) : Option (Code × State) :=
  match s.inbox with
  | [] => none
  | c :: rest => some (c, { s with inbox := rest, freeCtr := s.freeCtr + 1 })

/-- The phases in which a header is met (R80); from any other the first of them is taken. -/
def headerPhase : Phase → Phase
  | .awaitingFirstFrameHeader => .awaitingFirstFrameHeader
  | .awaitingVbrDecision => .awaitingVbrDecision
  | .scanningFrames => .scanningFrames
  | .awaitingId3 => .awaitingFirstFrameHeader
  | .done => .awaitingFirstFrameHeader
  | .failed => .awaitingFirstFrameHeader

/-- `n` bytes of `buf`, with zeros where it is shorter. -/
def padTo (n : Nat) (buf : List Byte) : List Byte := buf.take n ++ List.replicate (n - buf.length) 0

/-- The state in which a unit stands where the block meets it: the phase that expects its format, its
bytes at the buffer front or at the marker offset, and the 8 bytes R87 asks for behind a VBR tag. Any
other coded form needs no place. -/
def placeUnit (c : Code) (s : State) : State :=
  match c with
  | .unit .hdr32First bytes =>
    match decodeUnit .hdr32First bytes with
    | .instr (.hdrInvalidFirst _) =>
      { s with phase := .awaitingFirstFrameHeader, buf := bytes ++ s.buf.drop 4 }
    | _ => { s with phase := headerPhase s.phase, buf := bytes ++ s.buf.drop 4 }
  | .unit .hdr32Later bytes => { s with phase := .scanningFrames, buf := bytes ++ s.buf.drop 4 }
  | .unit .id3hdr80 bytes => { s with phase := .awaitingId3, buf := bytes ++ s.buf.drop 10 }
  | .unit .tag32 bytes =>
    let off := vbroff s.firstChmode
    { s with
      phase := .awaitingVbrDecision
      buf := padTo off s.buf ++ bytes ++ padTo (vbrWaitExtra - vbrTagBytes) (s.buf.drop (off + vbrTagBytes))
        ++ s.buf.drop (off + vbrWaitExtra) }
  | .cycle _ => s
  | .chunk _ => s
  | .block _ _ _ => s

end Sys2Proof.Machine
end

