-- ==== Sys2Proof/Machine/Step.lean ====
section
/-! DEFINITION. One step: take the next offered operation, decode it, run it (R12, R60). -/

namespace Sys2Proof.Machine

/-- One step. With nothing offered the block holds its state (R215), as it does in a port cycle that
carries no event (R190). -/
def step (s : State) : Host.Outcome State Fault Refusal :=
  match fetch s with
  | none => .next s
  | some (c, t) =>
    match decode c with
    | .instr i => exec i t
    | .rejected .idleCycle => .next t
    | .rejected r => .refused (.undecodable r)

/-- The state in which the next step runs the word `w` of `nbits` bits (logs 1, 15). -/
def State.withFetchWord (s : State) (nbits w : Nat) : State :=
  let c := tableCode nbits w
  let t := placeUnit c s
  { t with inbox := c :: t.inbox }

end Sys2Proof.Machine
end

