-- ==== Sys2Proof/Machine/Flags.lean ====
section
/-! DEFINITION. The block has no flags or condition codes (R30). What stands in their place are the codes
of the phase and of the outcome (R21, R25, R95) and the status outputs (R31, R187, R190), all functions
of the state. -/

namespace Sys2Proof.Machine

/-- The 3-bit code of a phase (R21). -/
def Phase.code : Phase → BitVec 3
  | .awaitingId3 => 0
  | .awaitingFirstFrameHeader => 1
  | .awaitingVbrDecision => 2
  | .scanningFrames => 3
  | .done => 4
  | .failed => 5

/-- The 2-bit kind code of an outcome (R25). -/
def ScanResult.kindCode : ScanResult → BitVec 2
  | .noResult => 0
  | .count _ => 1
  | .formatError => 2
  | .ioFailure _ => 3

/-- What the host sees (R31, R190). -/
structure Outputs where
  outValid : Bool
  outKind : BitVec 2
  outCount : BitVec 32
  outErr : Err
  stop : Bool
  inReady : Bool
deriving DecidableEq, Repr

/-- `out_err` (R31): the payload of IoFailure(e); with any other kind unspecified, a free value (log 5). -/
def outErr (s : State) : Err :=
  match s.outcome with
  | .ioFailure e => e
  | .noResult | .count _ | .formatError => Config.freeOutErr s.freeCtr

/-- The outputs of a state (R31). `in_ready` is 1 between events and stays 1 in a terminal phase (R190,
R241, log 14). -/
def outputs (s : State) : Outputs where
  outValid := s.phase.isTerminal
  outKind := s.outcome.kindCode
  outCount := s.count
  outErr := outErr s
  stop := s.stop
  inReady := true

end Sys2Proof.Machine
end

