-- ==== Sys2Proof/Machine/Run.lean ====
section
/-! DEFINITION. Runs: a list of operations one after the other, the chunks of a stream, and the two
results SCAN and SCAN_ERR of a whole run (R189, R192). -/

namespace Sys2Proof.Machine

/-- The operations of a list, one after the other; the first stop ends the run. -/
def runAll : List Instr → State → Res State
  | [], s => .next s
  | i :: is, s => andThen (exec i s) (runAll is)

/-- `PUSH c1, ..., PUSH ck`. -/
def pushAll (cs : List (List Byte)) (s : State) : Res State := runAll (cs.map .push) s

/-- `RESET, PUSH c1, ..., PUSH ck, EOS` (R189, R192). -/
def scanRun (cs : List (List Byte)) : List Instr := .reset :: cs.map .push ++ [.eos]

/-- `RESET, PUSH c1, ..., PUSH ck, SRCERR e` (R192). -/
def scanErrRun (cs : List (List Byte)) (e : Err) : List Instr := .reset :: cs.map .push ++ [.srcerr e]

/-- The result of a run: the outcome in the state after its last event (R192). -/
def resultOf (r : Res State) : Res ScanResult := andThen r fun t => .next t.outcome

end Sys2Proof.Machine
end

