-- ==== Sys2Proof/Safety.lean ====
section
/-! DEFINITION. The terms claims are stated in: the bytes of a buffer by offset, the number of bytes a phase
is waiting for (R62, R158), the invariant of a running block (R24, R35, R158), the stream a buffer is the
rest of (R54), and the result of a whole stream as one function of its bytes (R2, R61, R192). -/

namespace Sys2Proof.Machine

/-! ## Bytes by offset -/

/-- The byte at an offset from the front; 0 past the end, where no claim looks. -/
def byteAt (buf : List Byte) (k : Nat) : Byte := buf.getD k 0

/-- The four bytes at an offset from the front. -/
def bytesAt (buf : List Byte) (off : Nat) : Bytes4 :=
  ⟨byteAt buf off, byteAt buf (off + 1), byteAt buf (off + 2), byteAt buf (off + 3)⟩

/-- The header at the buffer front (R88). -/
def headerOf (buf : List Byte) : Word := be32 (bytesAt buf 0)

/-- The first three bytes are "ID3" (R84, R152). -/
def startsWithId3 (buf : List Byte) : Bool := buf.take 3 == id3MagicBytes

/-- The four bytes at an offset are "Xing" or "Info" (R86). -/
def vbrTagAt (off : Nat) (buf : List Byte) : Bool :=
  bytesAt buf off == xingBytes || bytesAt buf off == infoBytes

/-! ## Waiting -/

/-- The length of a frame, or 0 where it is Invalid: no number of bytes is waited for. -/
def FrameLength.waitedFor : FrameLength → Nat
  | .invalid => 0
  | .bytes n => n

/-- The number of bytes the current phase is waiting for (R62, R158), given those already there; 0 where
it waits for none. -/
def threshold (s : State) : Nat :=
  match s.phase with
  | .awaitingId3 =>
    if s.buf.length < 10 then 10
    else if startsWithId3 s.buf then tagskip (bytesAt s.buf 6) else 0
  | .awaitingFirstFrameHeader => if s.buf.length < 4 then 4 else 0
  | .awaitingVbrDecision =>
    if s.buf.length < vbroff s.firstChmode + 12 then vbroff s.firstChmode + 12
    else if vbrTagAt (vbroff s.firstChmode) s.buf then (framelenOf (headerOf s.buf)).waitedFor else 0
  | .scanningFrames =>
    if s.buf.length < 4 then 4
    else if hdrvalid (headerOf s.buf) then (framelenOf (headerOf s.buf)).waitedFor else 0
  | .done => 0
  | .failed => 0

/-- A waiting state (R158): the buffer is below the threshold. -/
abbrev Waiting (s : State) : Prop := s.buf.length < threshold s

/-- Where ADVANCE stops (R150, R158): in a terminal phase or in a waiting state. -/
abbrev Settled (s : State) : Prop := s.phase.isTerminal = true ∨ Waiting s

/-- The bounds R62 gives: 10 before the magic is seen, 268435465 for a recognised tag, 4 for a header, 48 for
the VBR decision, 1441 for a frame. -/
def thresholdLimit (s : State) : Nat :=
  match s.phase with
  | .awaitingId3 => if s.buf.length < 10 then 10 else 268435465
  | .awaitingFirstFrameHeader => 4
  | .awaitingVbrDecision => if s.buf.length < vbroff s.firstChmode + 12 then 48 else 1441
  | .scanningFrames => if s.buf.length < 4 then 4 else 1441
  | .done => 0
  | .failed => 0

/-! ## The invariant -/

/-- What holds of every state between events: the eight points of R35 (the first is the type Phase), the
captured channel mode (R24), waiting (R158), the capacity (R20), and that the source has offered events
only (log 1). -/
structure BlockInv (s : State) : Prop where
  noResult_iff : s.outcome = .noResult ↔ s.phase.isTerminal = false
  stop_eq : s.stop = s.phase.isTerminal
  done_iff : s.phase = .done ↔ s.outcome = .count s.count
  count_done : ∀ n, s.outcome = .count n → s.phase = .done
  failed_iff : s.phase = .failed ↔ (s.outcome = .formatError ∨ ∃ e, s.outcome = .ioFailure e)
  terminal_empty : s.phase.isTerminal = true → s.buf = []
  early_count : s.phase.code.toNat ≤ 2 → s.count = 0
  start_pos : s.phase = .awaitingId3 → s.pos = 0
  formatError_count : s.outcome = .formatError → s.count = 0
  chmode : s.phase = .awaitingVbrDecision →
    4 ≤ s.buf.length ∧ hdrvalid (headerOf s.buf) = true ∧ s.firstChmode = hdrChannelMode (headerOf s.buf)
  settled : Settled s
  capacity : Memory.wf s.params s.buf = true
  source : ∀ c ∈ s.inbox, c.isHostInput = true

/-! ## Streams -/

/-- The buffer is what is left of the stream from offset `pos` on (R54). -/
def SuffixOf (stream : List Byte) (s : State) : Prop :=
  s.pos ≤ stream.length ∧ s.buf = stream.drop s.pos

/-- The whole frames at the front of a stream, up to the first bytes that are no valid header of a valid
length or no whole frame (R155, R61). Each is at least one byte long, so the stream's length is fuel
enough. -/
def wholeFrames : Nat → List Byte → Nat
  | 0, _ => 0
  | fuel + 1, stream =>
    if stream.length < 4 then 0
    else if hdrvalid (headerOf stream) then
      match framelenOf (headerOf stream) with
      | .invalid => 0
      | .bytes l => if stream.length < l then 0 else wholeFrames fuel (stream.drop l) + 1
    else 0

/-- The stream after the first frame when that is a marker frame (R61 row 2a, R154); `none` where the
stream ends before the decision. -/
def afterMarker (stream : List Byte) : Option (List Byte) :=
  let off := vbroff (hdrChannelMode (headerOf stream))
  if stream.length < off + 12 then none
  else if vbrTagAt off stream then
    match framelenOf (headerOf stream) with
    | .invalid => some stream
    | .bytes l => if stream.length < l then none else some (stream.drop l)
  else some stream

/-- The result of the frames of a stream, its tag gone (R153 to R155). -/
def scanFrames (stream : List Byte) : ScanResult :=
  if stream.length < 4 then .count 0
  else if hdrvalid (headerOf stream) then
    match afterMarker stream with
    | none => .count 0
    | some rest => .count (BitVec.ofNat 32 (wholeFrames rest.length rest))
  else .formatError

/-- SCAN(s) of R192 as one function of the stream's bytes, without events, phases or a buffer (R2, R61). -/
def scanStream (stream : List Byte) : ScanResult :=
  if stream.length < 10 then .count 0
  else if startsWithId3 stream then
    if stream.length < tagskip (bytesAt stream 6) then .count 0
    else scanFrames (stream.drop (tagskip (bytesAt stream 6)))
  else scanFrames stream

/-! ## Views of the state -/

/-- The offsets from the buffer front that the step of the phase may read (R59): the size bytes only after
the magic matched, the first header again only after the VBR tag matched. -/
def readOffsets (s : State) : List Nat :=
  match s.phase with
  | .awaitingId3 => [0, 1, 2] ++ (if startsWithId3 s.buf then [6, 7, 8, 9] else [])
  | .awaitingFirstFrameHeader => [0, 1, 2, 3]
  | .awaitingVbrDecision =>
    let off := vbroff s.firstChmode
    [off, off + 1, off + 2, off + 3] ++ (if vbrTagAt off s.buf then [0, 1, 2, 3] else [])
  | .scanningFrames => [0, 1, 2, 3]
  | .done => []
  | .failed => []

/-- A whole frame (R61 row 3): a valid header of a valid length, and as many bytes as that length. -/
def IsWholeFrame (f : List Byte) : Prop :=
  4 ≤ f.length ∧ hdrvalid (headerOf f) = true ∧ framelenOf (headerOf f) = .bytes f.length

/-- The state of the block alone (R20): the model's own fields at fixed values. -/
def blockState (s : State) : State := { s with inbox := [], opResult := .nothing, freeCtr := 0 }

/-- The state with another value in `first_chmode`. -/
def withChmode (cm : BitVec 2) (s : State) : State := { s with firstChmode := cm }

end Sys2Proof.Machine
end

