-- ==== Sys2Proof/Certificates/Slice0/Obligations.lean ====
section
/-! DEFINITION. The statements for the provers. Each docstring names the rule of spec/ it formalises; where
a clause rests on a choice of the model it names the log entry. `opResult`, `freeCtr` and `inbox` are the
model's own fields (logs 1, 2, 4): where a statement writes them, that clause is the model's. -/

open Sys2Proof Sys2Proof.Machine

/-! ## Encodings -/

/-- Words written out from the encodings of R81, R82, R84, R86 and R95 decode to what they stand for; the
header words are vectors V-B1, V-B2, V-B3, V-B5, V-B13 to V-B15 (95_test_vectors.md). The model's choices in
it: that a reserved-length header, which hits HDR_VALID's pattern too, decodes to its reserved row (log 12);
the layout of the block operands, and that `decodeTableWord` takes the signals a word does not give as 0,
such as in_err for the 8-bit word 2 (log 13). -/
def Obligations.WrittenOutWordsDecode : Prop :=
  decodeTableWord 32 0xFFFB9000 = some (.hdrValid 0xFFFB9000) ∧
  decodeTableWord 32 0xFFF39000 = some (.hdrInvalidFirst 0xFFF39000) ∧
  decode (.unit .hdr32Later [0xFF, 0xF3, 0x90, 0x00]) = .instr (.hdrInvalidLater 0xFFF39000) ∧
  decodeTableWord 32 0xFFFB0000 = some (.hdrLenReservedBr0 0xFFFB0000) ∧
  decodeTableWord 32 0xFFFBF000 = some (.hdrLenReservedBr15 0xFFFBF000) ∧
  decodeTableWord 32 0xFFFB9C00 = some (.hdrLenReservedSr3 0xFFFB9C00) ∧
  decodeTableWord 80 0x49443304000000000005 = some (.id3Magic 0x0400 0x00 ⟨0, 0, 0, 5⟩) ∧
  decodeTableWord 32 0x58696E67 = some .vbrXing ∧
  decodeTableWord 32 0x496E666F = some .vbrInfo ∧
  decode (.block .framelen 0xFFFB9200 0) = .instr (.framelen 9 0 1) ∧
  decode (.block .vbroff 0xFFFB90C0 0) = .instr (.vbroff 3) ∧
  decode (.block .syncsafe 0x00000201 0) = .instr (.syncsafe ⟨0, 0, 2, 1⟩) ∧
  decodeTableWord 8 1 = some .eos ∧
  decodeTableWord 8 2 = some (.srcerr 0) ∧
  decodeTableWord 8 3 = some .beatReserved

/-- Decode and encode agree on every well-formed operation, every operand at every value. -/
def Obligations.DecodeOfEncodeIsTheInstruction : Prop :=
  ∀ i : Instr, i.wellFormed = true → decode (encode i) = .instr i

/-- R82: validity by the three fields, by mask and match, by bits 31 to 17, and by the first two bytes. -/
def Obligations.HeaderValidByPatternAndBytes : Prop :=
  ∀ h : Word,
    (hdrvalid h = true ↔ h &&& 0xFFFE0000#32 = 0xFFFA0000#32) ∧
    (hdrvalid h = true ↔ h.extractLsb' 17 15 = 0b111111111111101#15) ∧
    (hdrvalid h = true ↔
      (wordBytes h).b0 = 0xFF#8 ∧ ((wordBytes h).b1 = 0xFA#8 ∨ (wordBytes h).b1 = 0xFB#8))

/-- R83: changing bits 16, 8 and 5 to 0 in any way changes neither validity nor the frame length nor the
marker offset, and the offset is 4 + side information in every case. -/
def Obligations.IgnoredHeaderBitsHaveNoEffect : Prop :=
  ∀ h m : Word,
    hdrvalid (h ^^^ (m &&& 0x0001013F#32)) = hdrvalid h ∧
    framelenOf (h ^^^ (m &&& 0x0001013F#32)) = framelenOf h ∧
    vbroff (hdrChannelMode (h ^^^ (m &&& 0x0001013F#32))) = vbroff (hdrChannelMode h) ∧
    vbroff (hdrChannelMode h) = 4 + (if h.toNat / 64 % 4 = 3 then 17 else 32)

/-- R55: BE32 as a number, and where its bytes go: b[0] holds bits 31 to 24 and so the top 8 of the 11
sync bits, b[3] holds bits 7 to 0 and so the channel mode in its top two bits. -/
def Obligations.HeaderBytesAreBigEndian : Prop :=
  ∀ b : Bytes4,
    (be32 b).toNat = b.b0.toNat * 2 ^ 24 + b.b1.toNat * 2 ^ 16 + b.b2.toNat * 2 ^ 8 + b.b3.toNat ∧
    (be32 b).extractLsb' 24 8 = b.b0 ∧ (be32 b).extractLsb' 0 8 = b.b3 ∧
    (hdrSync (be32 b)).extractLsb' 3 8 = b.b0 ∧
    hdrChannelMode (be32 b) = b.b3.extractLsb' 6 2

/-- R91, R96: every 32-bit value belongs to exactly the row its fields say, in both phases R96 tells
apart. Where rows overlap the order is the model's (log 12). -/
def Obligations.EveryHeaderValueHasItsRow : Prop :=
  ∀ h : Word,
    let row (invalid : Instr) : Instr :=
      if hdrvalid h = true then
        if (hdrdec h).sampleRateIndex = 3 then .hdrLenReservedSr3 h
        else if (hdrdec h).bitrateIndex = 0 then .hdrLenReservedBr0 h
        else if (hdrdec h).bitrateIndex = 15 then .hdrLenReservedBr15 h
        else .hdrValid h
      else invalid
    decode (.unit .hdr32First (wordBytes h).toList) = .instr (row (.hdrInvalidFirst h)) ∧
    decode (.unit .hdr32Later (wordBytes h).toList) = .instr (row (.hdrInvalidLater h))

/-! ## Pure functions and tables -/

/-- R110: SYNCSAFE completes with the sum of the four 7-bit groups; bit 7 of every byte is dropped. -/
def Obligations.SyncsafeResult : Prop :=
  ∀ (b : Bytes4) (s : State), ∃ v : BitVec 28,
    exec (.syncsafe b) s = .next { s with opResult := .size v } ∧
    v.toNat = b.b0.toNat % 128 * 2 ^ 21 + b.b1.toNat % 128 * 2 ^ 14 + b.b2.toNat % 128 * 2 ^ 7 +
      b.b3.toNat % 128

/-- R111: HDRDEC completes with the seven fields, each by division on the header's number. -/
def Obligations.HdrdecResult : Prop :=
  ∀ (h : Word) (s : State),
    exec (.hdrdec h) s = .next (withResult (.header
      { syncOk := decide (h.toNat / 2 ^ 21 = 0x7FF)
        versionOk := decide (h.toNat / 2 ^ 19 % 4 = 3)
        layerOk := decide (h.toNat / 2 ^ 17 % 4 = 1)
        bitrateIndex := BitVec.ofNat 4 (h.toNat / 2 ^ 12)
        sampleRateIndex := BitVec.ofNat 2 (h.toNat / 2 ^ 10)
        padding := BitVec.ofNat 1 (h.toNat / 2 ^ 9)
        channelMode := BitVec.ofNat 2 (h.toNat / 2 ^ 6) }) s)

/-- R113: HDRVALID completes with "sync, version and layer as required", which is the mask-and-match. -/
def Obligations.HdrvalidResult : Prop :=
  ∀ (h : Word) (s : State),
    exec (.hdrIsValid h) s = .next (withResult (.valid
      (decide (h.toNat / 2 ^ 21 = 0x7FF ∧ h.toNat / 2 ^ 19 % 4 = 3 ∧ h.toNat / 2 ^ 17 % 4 = 1))) s) ∧
    (exec (.hdrIsValid h) s = .next (withResult (.valid true) s) ↔
      h &&& 0xFFFE0000#32 = 0xFFFA0000#32)

/-- R130: FRAMELEN completes with Invalid where a table entry is 0, else with the floor of 144 times the
bitrate over the sample rate, plus the padding. The tables are written out. -/
def Obligations.FramelenResult : Prop :=
  ∀ (bi : BitVec 4) (si : BitVec 2) (p : BitVec 1) (s : State),
    let br := [0, 32000, 40000, 48000, 56000, 64000, 80000, 96000, 112000, 128000, 160000, 192000,
      224000, 256000, 320000, 0].getD bi.toNat 0
    let sr := [44100, 48000, 32000, 0].getD si.toNat 0
    exec (.framelen bi si p) s = .next (withResult (.length
      (if br = 0 ∨ sr = 0 then .invalid else .bytes (144 * br / sr + p.toNat))) s)

/-- R131, R135: the value of FRAMELEN for every pair of indices (0 stands for Invalid), plus the padding; a
valid length is from 96 to 1441, both reached, greater than 4 and greater than VBROFF + 12. -/
def Obligations.FramelenValuesAndBounds : Prop :=
  (∀ (bi : BitVec 4) (si : BitVec 2) (p : BitVec 1),
    framelen bi si p =
      match (([[0, 0, 0, 0], [104, 96, 144, 0], [130, 120, 180, 0], [156, 144, 216, 0],
        [182, 168, 252, 0], [208, 192, 288, 0], [261, 240, 360, 0], [313, 288, 432, 0],
        [365, 336, 504, 0], [417, 384, 576, 0], [522, 480, 720, 0], [626, 576, 864, 0],
        [731, 672, 1008, 0], [835, 768, 1152, 0], [1044, 960, 1440, 0], [0, 0, 0, 0]] :
        List (List Nat)).getD bi.toNat []).getD si.toNat 0 with
      | 0 => .invalid
      | n + 1 => .bytes (n + 1 + p.toNat)) ∧
  framelen 1 1 0 = .bytes 96 ∧ framelen 14 2 1 = .bytes 1441 ∧
  ∀ (bi : BitVec 4) (si : BitVec 2) (p : BitVec 1) (l : Nat), framelen bi si p = .bytes l →
    96 ≤ l ∧ l ≤ 1441 ∧ 4 < l ∧ ∀ cm : BitVec 2, vbroff cm + 12 < l

/-- R132, R133: VBROFF completes with 4 + 17 for mono and 4 + 32 otherwise, TAGSKIP with 10 + the decoded
size. -/
def Obligations.VbroffAndTagskipResults : Prop :=
  (∀ (cm : BitVec 2) (s : State),
    exec (.vbroff cm) s = .next (withResult (.offset (4 + (if cm = 3 then 17 else 32))) s)) ∧
  (∀ (b : Bytes4) (s : State),
    exec (.tagskip b) s = .next (withResult (.skip
      (10 + (b.b0.toNat % 128 * 2 ^ 21 + b.b1.toNat % 128 * 2 ^ 14 + b.b2.toNat % 128 * 2 ^ 7 +
        b.b3.toNat % 128))) s))

/-- R114, R115: the two tables, entry by entry. -/
def Obligations.TableEntries : Prop :=
  (∀ (k : BitVec 4) (s : State), exec (.bitrate k) s = .next (withResult (.tableEntry
    ([0, 32000, 40000, 48000, 56000, 64000, 80000, 96000, 112000, 128000, 160000, 192000, 224000,
      256000, 320000, 0].getD k.toNat 0)) s)) ∧
  (∀ (k : BitVec 2) (s : State), exec (.samplerate k) s = .next (withResult (.tableEntry
    ([44100, 48000, 32000, 0].getD k.toNat 0)) s))

/-- R112 for the Bitfield Decoder, R130, R132 and R133 for the Length Calculator: the functions and table
lookups are total, their result depends on their operands alone, and they write no state of the block
(`opResult` is the model's own, log 2). -/
def Obligations.FunctionsReadAndWriteNoState : Prop :=
  ∀ i : Instr,
    ((∃ b, i = .syncsafe b) ∨ (∃ h, i = .hdrdec h) ∨ (∃ h, i = .hdrIsValid h) ∨
      (∃ bi si p, i = .framelen bi si p) ∨ (∃ cm, i = .vbroff cm) ∨ (∃ b, i = .tagskip b) ∨
      (∃ k, i = .bitrate k) ∨ (∃ k, i = .samplerate k)) →
    ∃ r : OpResult, ∀ s : State, exec i s = .next { s with opResult := r }

/-! ## The steps -/

/-- R152: STEP_ID3, every case, with its whole frame. -/
def Obligations.StepId3Result : Prop :=
  ∀ s : State, s.phase = .awaitingId3 →
    let skip := 10 + (syncsafe (bytesAt s.buf 6)).toNat
    (s.buf.length < 10 → exec .stepId3 s = .next { s with opResult := .stepped .wait }) ∧
    (10 ≤ s.buf.length → s.buf.take 3 ≠ [0x49, 0x44, 0x33] →
      exec .stepId3 s = .next { s with
        phase := .awaitingFirstFrameHeader, opResult := .stepped .moved }) ∧
    (10 ≤ s.buf.length → s.buf.take 3 = [0x49, 0x44, 0x33] → s.buf.length < skip →
      exec .stepId3 s = .next { s with opResult := .stepped .wait }) ∧
    (10 ≤ s.buf.length → s.buf.take 3 = [0x49, 0x44, 0x33] → skip ≤ s.buf.length →
      exec .stepId3 s = .next { s with
        buf := s.buf.drop skip, pos := s.pos + skip, phase := .awaitingFirstFrameHeader,
        opResult := .stepped .moved })

/-- R153: STEP_FIRST, every case, with its whole frame. -/
def Obligations.StepFirstResult : Prop :=
  ∀ s : State, s.phase = .awaitingFirstFrameHeader →
    (s.buf.length < 4 → exec .stepFirst s = .next { s with opResult := .stepped .wait }) ∧
    (4 ≤ s.buf.length → hdrvalid (headerOf s.buf) = false →
      exec .stepFirst s = .next { s with
        outcome := .formatError, phase := .failed, stop := true, buf := [],
        opResult := .stepped .ended }) ∧
    (4 ≤ s.buf.length → hdrvalid (headerOf s.buf) = true →
      exec .stepFirst s = .next { s with
        firstChmode := (headerOf s.buf).extractLsb' 6 2, phase := .awaitingVbrDecision,
        opResult := .stepped .moved })

/-- R154: STEP_VBR, every case, with its whole frame. -/
def Obligations.StepVbrResult : Prop :=
  ∀ s : State, s.phase = .awaitingVbrDecision →
    let off := 4 + (if s.firstChmode = 3 then 17 else 32)
    let tag := bytesAt s.buf off
    let matched := tag = ⟨0x58, 0x69, 0x6E, 0x67⟩ ∨ tag = ⟨0x49, 0x6E, 0x66, 0x6F⟩
    (s.buf.length < off + 12 → exec .stepVbr s = .next { s with opResult := .stepped .wait }) ∧
    (off + 12 ≤ s.buf.length → ¬ matched →
      exec .stepVbr s = .next { s with phase := .scanningFrames, opResult := .stepped .moved }) ∧
    (off + 12 ≤ s.buf.length → matched → framelenOf (headerOf s.buf) = .invalid →
      exec .stepVbr s = .next { s with phase := .scanningFrames, opResult := .stepped .moved }) ∧
    (∀ l, off + 12 ≤ s.buf.length → matched → framelenOf (headerOf s.buf) = .bytes l →
      s.buf.length < l → exec .stepVbr s = .next { s with opResult := .stepped .wait }) ∧
    (∀ l, off + 12 ≤ s.buf.length → matched → framelenOf (headerOf s.buf) = .bytes l →
      l ≤ s.buf.length →
      exec .stepVbr s = .next { s with
        buf := s.buf.drop l, pos := s.pos + l, phase := .scanningFrames,
        opResult := .stepped .moved })

/-- R155, R23: STEP_SCAN, every case, with its whole frame; at count 2^32 - 1 a whole frame is refused
(R23). -/
def Obligations.StepScanResult : Prop :=
  ∀ s : State, s.phase = .scanningFrames →
    let ended : State := { s with
      outcome := .count s.count, phase := .done, stop := true, buf := [],
      opResult := .stepped .ended }
    (s.buf.length < 4 → exec .stepScan s = .next { s with opResult := .stepped .wait }) ∧
    (4 ≤ s.buf.length → hdrvalid (headerOf s.buf) = false → exec .stepScan s = .next ended) ∧
    (4 ≤ s.buf.length → hdrvalid (headerOf s.buf) = true →
      framelenOf (headerOf s.buf) = .invalid → exec .stepScan s = .next ended) ∧
    (∀ l, 4 ≤ s.buf.length → hdrvalid (headerOf s.buf) = true →
      framelenOf (headerOf s.buf) = .bytes l → s.buf.length < l →
      exec .stepScan s = .next { s with opResult := .stepped .wait }) ∧
    (∀ l, 4 ≤ s.buf.length → hdrvalid (headerOf s.buf) = true →
      framelenOf (headerOf s.buf) = .bytes l → l ≤ s.buf.length → s.count.toNat < 2 ^ 32 - 1 →
      exec .stepScan s = .next { s with
        buf := s.buf.drop l, pos := s.pos + l, count := BitVec.ofNat 32 (s.count.toNat + 1),
        opResult := .stepped .moved }) ∧
    (∀ l, 4 ≤ s.buf.length → hdrvalid (headerOf s.buf) = true →
      framelenOf (headerOf s.buf) = .bytes l → l ≤ s.buf.length → s.count.toNat = 2 ^ 32 - 1 →
      exec .stepScan s = .refused .countOverflow)

/-- R205: TERMINATE(P, o) from a non-terminal phase: the four writes, and nothing else. -/
def Obligations.TerminateResult : Prop :=
  ∀ (p : EndPhase) (o : EndOutcome) (s : State), s.phase.isTerminal = false →
    exec (.terminate p o) s = .next { s with
      outcome := (match o with
        | .count => .count s.count
        | .formatError => .formatError
        | .ioFailure e => .ioFailure e)
      phase := (match p with
        | .done => .done
        | .failed => .failed)
      stop := true
      buf := [] }

/-- The model's own refusals (log 11): a step run by itself outside the phase that selects it, and TERMINATE in
a terminal phase, are refused by name. -/
def Obligations.OperationsOutOfPlaceRefused : Prop :=
  ∀ s : State,
    (s.phase ≠ .awaitingId3 → exec .stepId3 s = .refused .stepNotSelected) ∧
    (s.phase ≠ .awaitingFirstFrameHeader → exec .stepFirst s = .refused .stepNotSelected) ∧
    (s.phase ≠ .awaitingVbrDecision → exec .stepVbr s = .refused .stepNotSelected) ∧
    (s.phase ≠ .scanningFrames → exec .stepScan s = .refused .stepNotSelected) ∧
    (s.phase.isTerminal = true → ∀ p o, exec (.terminate p o) s = .refused .alreadyEnded)

/-! ## ADVANCE -/

/-- R150: ADVANCE runs the step of the phase and goes round on MOVED, stops on WAIT and ENDED, and returns
at once in a terminal phase. -/
def Obligations.AdvanceGoesRoundOnMoved : Prop :=
  ∀ s t : State,
    (s.phase = .awaitingId3 → stepOfPhase s = stepId3 s) ∧
    (s.phase = .awaitingFirstFrameHeader → stepOfPhase s = stepFirst s) ∧
    (s.phase = .awaitingVbrDecision → stepOfPhase s = stepVbr s) ∧
    (s.phase = .scanningFrames → stepOfPhase s = stepScan s) ∧
    (s.phase.isTerminal = true → exec .advance s = .next s) ∧
    (stepOfPhase s = .next (.moved t) → exec .advance s = exec .advance t) ∧
    (stepOfPhase s = .next .wait → exec .advance s = .next s) ∧
    (stepOfPhase s = .next (.ended t) → exec .advance s = .next t)

/-- R157: ADVANCE's loop has ended within 3 + floor(|buf| / 96) + 1 steps: more rounds change nothing, and
the loop never runs out. -/
def Obligations.AdvanceEndsWithinBound : Prop :=
  ∀ (s : State) (n : Nat), 3 + s.buf.length / 96 + 1 ≤ n →
    advanceLoop n s = exec .advance s ∧ exec .advance s ≠ .fault .advanceUnfinished

/-- R150, R158: unless the frame count would pass 2^32 - 1, ADVANCE answers a next state, and that state is
terminal or waiting. -/
def Obligations.AdvanceCompletesSettled : Prop :=
  ∀ s : State, s.count.toNat + s.buf.length / 96 < 2 ^ 32 →
    ∃ t, exec .advance s = .next t ∧ Settled t

/-! ## Events -/

/-- R181, R34: RESET is accepted in every state and sets all of the block's state; `first_chmode` becomes
some value, which no clause names. What the model itself keeps or clears beside it is logs 1, 2, 4, 7. -/
def Obligations.ResetResult : Prop :=
  ∀ s : State, ∃ cm : BitVec 2,
    exec .reset s = .next { s with
      phase := .awaitingId3, buf := [], count := 0, outcome := .noResult, stop := false, pos := 0,
      firstChmode := cm, opResult := .nothing, freeCtr := s.freeCtr + 1 }

/-- R182: in a running scan PUSH appends the whole chunk, within the capacity, and then runs ADVANCE; in a
terminal phase it changes nothing. -/
def Obligations.PushAppendsThenAdvances : Prop :=
  ∀ (c : List Byte) (s : State),
    (s.phase.isTerminal = true → exec (.push c) s = .next s) ∧
    (s.phase.isTerminal = false → fitsCap s.params (s.buf.length + c.length) = true →
      exec (.push c) s = exec .advance { s with buf := s.buf ++ c })

/-- R182, R158: within the capacity and below the last count, PUSH in a running scan answers a next state,
terminal or waiting. -/
def Obligations.PushCompletesSettled : Prop :=
  ∀ (c : List Byte) (s : State), s.phase.isTerminal = false →
    fitsCap s.params (s.buf.length + c.length) = true →
    s.count.toNat + (s.buf.length + c.length) / 96 < 2 ^ 32 →
    ∃ t, exec (.push c) s = .next t ∧ Settled t

/-- What PUSH and ADVANCE leave unchanged: the source's side, the parameters and the model's own fields
always; the outcome and `stop` while the scan runs on; `first_chmode` unless the first header is accepted;
and every byte of the buffer and the chunk that is not consumed from the front (R51, R53, R205). At the end
they leave one of the two outcomes of R200 that are not the source's. -/
def Obligations.PushAndAdvanceFrame : Prop :=
  ∀ (i : Instr) (c : List Byte) (s t : State),
    (i = .push c ∨ (i = .advance ∧ c = [])) → s.phase.isTerminal = false → exec i s = .next t →
    t.inbox = s.inbox ∧ t.params = s.params ∧ t.freeCtr = s.freeCtr ∧ t.opResult = s.opResult ∧
    s.pos ≤ t.pos ∧
    (t.phase.isTerminal = false →
      t.outcome = s.outcome ∧ t.stop = s.stop ∧ t.buf = (s.buf ++ c).drop (t.pos - s.pos)) ∧
    (t.phase.isTerminal = true →
      t.stop = true ∧ t.buf = [] ∧ (t.outcome = .count t.count ∨ t.outcome = .formatError)) ∧
    (t.firstChmode ≠ s.firstChmode →
      s.phase = .awaitingId3 ∨ s.phase = .awaitingFirstFrameHeader)

/-- R183: EOS in a running scan ends it with the count so far; in a terminal phase it changes nothing. -/
def Obligations.EosResult : Prop :=
  ∀ s : State,
    (s.phase.isTerminal = true → exec .eos s = .next s) ∧
    (s.phase.isTerminal = false →
      exec .eos s = .next { s with
        outcome := .count s.count, phase := .done, stop := true, buf := [] })

/-- R184: SRCERR e in a running scan ends it with IoFailure(e), e unchanged; in a terminal phase it changes
nothing. -/
def Obligations.SrcerrResult : Prop :=
  ∀ (e : Err) (s : State),
    (s.phase.isTerminal = true → exec (.srcerr e) s = .next s) ∧
    (s.phase.isTerminal = false →
      exec (.srcerr e) s = .next { s with
        outcome := .ioFailure e, phase := .failed, stop := true, buf := [] })

/-- R185: in a terminal phase PUSH, EOS and SRCERR change nothing. -/
def Obligations.LateEventsChangeNothing : Prop :=
  ∀ (s : State) (c : List Byte) (e : Err), s.phase.isTerminal = true →
    exec (.push c) s = .next s ∧ exec .eos s = .next s ∧ exec (.srcerr e) s = .next s

/-- R186: the empty chunk is accepted from every state an event can leave, and changes nothing. -/
def Obligations.EmptyChunkChangesNothing : Prop :=
  ∀ s : State, Settled s → Memory.wf s.params s.buf = true → exec (.push []) s = .next s

/-! ## Stream units -/

/-- R153, R91: a header met in phase AwaitingFirstFrameHeader: a valid one is accepted whatever its length
indices, an invalid one ends the scan with FormatError. -/
def Obligations.FirstHeaderUnits : Prop :=
  ∀ (h : Word) (s : State), s.phase = .awaitingFirstFrameHeader →
    s.buf.take 4 = (wordBytes h).toList →
    let accepted : State := { s with
      firstChmode := h.extractLsb' 6 2, phase := .awaitingVbrDecision, opResult := .stepped .moved }
    (hdrvalid h = true → exec (.hdrValid h) s = .next accepted) ∧
    (hdrvalid h = true → (hdrdec h).bitrateIndex = 0 →
      exec (.hdrLenReservedBr0 h) s = .next accepted) ∧
    (hdrvalid h = true → (hdrdec h).bitrateIndex = 15 →
      exec (.hdrLenReservedBr15 h) s = .next accepted) ∧
    (hdrvalid h = true → (hdrdec h).sampleRateIndex = 3 →
      exec (.hdrLenReservedSr3 h) s = .next accepted) ∧
    (hdrvalid h = false → exec (.hdrInvalidFirst h) s = .next { s with
      outcome := .formatError, phase := .failed, stop := true, buf := [],
      opResult := .stepped .ended })

/-- R155, R203, R91: a header met in phase ScanningFrames: an invalid one, or a valid one with a reserved
index, ends the scan with the count; a valid one of a whole frame consumes and counts it. -/
def Obligations.LaterHeaderUnits : Prop :=
  ∀ (h : Word) (s : State), s.phase = .scanningFrames → s.buf.take 4 = (wordBytes h).toList →
    let ended : State := { s with
      outcome := .count s.count, phase := .done, stop := true, buf := [],
      opResult := .stepped .ended }
    (hdrvalid h = false → exec (.hdrInvalidLater h) s = .next ended) ∧
    (hdrvalid h = true → (hdrdec h).bitrateIndex = 0 →
      exec (.hdrLenReservedBr0 h) s = .next ended) ∧
    (hdrvalid h = true → (hdrdec h).bitrateIndex = 15 →
      exec (.hdrLenReservedBr15 h) s = .next ended) ∧
    (hdrvalid h = true → (hdrdec h).sampleRateIndex = 3 →
      exec (.hdrLenReservedSr3 h) s = .next ended) ∧
    (∀ l, hdrvalid h = true → framelenOf h = .bytes l → l ≤ s.buf.length →
      s.count.toNat < 2 ^ 32 - 1 →
      exec (.hdrValid h) s = .next { s with
        buf := s.buf.drop l, pos := s.pos + l, count := BitVec.ofNat 32 (s.count.toNat + 1),
        opResult := .stepped .moved })

/-- R84, R85, R152: an ID3v2 tag header met at the front in phase AwaitingID3: its version, its flags and
bit 7 of its size bytes have no part; the tag is consumed whole or waited for. -/
def Obligations.Id3TagUnit : Prop :=
  ∀ (v : BitVec 16) (f : Byte) (z : Bytes4) (s : State), s.phase = .awaitingId3 →
    s.buf.take 10 =
      [0x49, 0x44, 0x33, v.extractLsb' 8 8, v.extractLsb' 0 8, f, z.b0, z.b1, z.b2, z.b3] →
    let skip := 10 + (z.b0.toNat % 128 * 2 ^ 21 + z.b1.toNat % 128 * 2 ^ 14 +
      z.b2.toNat % 128 * 2 ^ 7 + z.b3.toNat % 128)
    (s.buf.length < skip →
      exec (.id3Magic v f z) s = .next { s with opResult := .stepped .wait }) ∧
    (skip ≤ s.buf.length →
      exec (.id3Magic v f z) s = .next { s with
        buf := s.buf.drop skip, pos := s.pos + skip, phase := .awaitingFirstFrameHeader,
        opResult := .stepped .moved })

/-- R86, R154: "Xing" or "Info" at the marker offset: the marker frame is skipped whole and not counted, an
Invalid length consumes nothing, a frame not yet whole is waited for. -/
def Obligations.VbrTagUnits : Prop :=
  ∀ (s : State) (i : Instr), s.phase = .awaitingVbrDecision →
    vbroff s.firstChmode + 12 ≤ s.buf.length →
    ((i = .vbrXing ∧ bytesAt s.buf (vbroff s.firstChmode) = ⟨0x58, 0x69, 0x6E, 0x67⟩) ∨
      (i = .vbrInfo ∧ bytesAt s.buf (vbroff s.firstChmode) = ⟨0x49, 0x6E, 0x66, 0x6F⟩)) →
    (framelenOf (headerOf s.buf) = .invalid →
      exec i s = .next { s with phase := .scanningFrames, opResult := .stepped .moved }) ∧
    (∀ l, framelenOf (headerOf s.buf) = .bytes l → s.buf.length < l →
      exec i s = .next { s with opResult := .stepped .wait }) ∧
    (∀ l, framelenOf (headerOf s.buf) = .bytes l → l ≤ s.buf.length →
      exec i s = .next { s with
        buf := s.buf.drop l, pos := s.pos + l, phase := .scanningFrames,
        opResult := .stepped .moved })

/-- Every row of the stream formats, with any operand and in any state, does what the phase's step does, and in
a terminal phase nothing (R185): a unit at its place takes its branch of the step, and a unit that is not
there is not recognised (R85, R86, R93), so that the step acts on the bytes that are. The rows and the four
steps are two accounts of one machine (R80, R152 to R155). That a row is one step of its own is log 10. -/
def Obligations.StreamUnitRunsAsTheStep : Prop :=
  ∀ (s : State) (i : Instr),
    ((∃ h, i = .hdrValid h) ∨ (∃ h, i = .hdrInvalidFirst h) ∨ (∃ h, i = .hdrInvalidLater h) ∨
      (∃ h, i = .hdrLenReservedBr0 h) ∨ (∃ h, i = .hdrLenReservedBr15 h) ∨
      (∃ h, i = .hdrLenReservedSr3 h) ∨ (∃ v f z, i = .id3Magic v f z) ∨ i = .vbrXing ∨ i = .vbrInfo) →
    (s.phase = .awaitingId3 → exec i s = exec .stepId3 s) ∧
    (s.phase = .awaitingFirstFrameHeader → exec i s = exec .stepFirst s) ∧
    (s.phase = .awaitingVbrDecision → exec i s = exec .stepVbr s) ∧
    (s.phase = .scanningFrames → exec i s = exec .stepScan s) ∧
    (s.phase.isTerminal = true → exec i s = .next s)

/-! ## The step of the machine -/

/-- R12, R60: a step takes the next offered operation and runs it whole; with nothing offered the block
holds its state (R215); what is no operation is refused (log 13). -/
def Obligations.StepRunsTheDecodedOperation : Prop :=
  ∀ s : State,
    (s.inbox = [] → step s = .next s) ∧
    (∀ c rest i, s.inbox = c :: rest → decode c = .instr i →
      step s = exec i { s with inbox := rest, freeCtr := s.freeCtr + 1 }) ∧
    (∀ c rest r, s.inbox = c :: rest → decode c = .rejected r → r ≠ .idleCycle →
      step s = .refused (.undecodable r))

/-- R190, R208: what a port cycle does: `rst` overrides any beat; a transferred beat is the event of its
kind; a reserved beat is accepted and ignored (U20); a cycle with no beat is no event. -/
def Obligations.PortCycleIsItsEvent : Prop :=
  ∀ (s : State) (p : PortCycle) (rest : List Code), s.inbox = .cycle p :: rest →
    let t : State := { s with inbox := rest, freeCtr := s.freeCtr + 1 }
    (p.rst = true → step s = exec .reset t) ∧
    (p.rst = false → p.inValid = false → step s = .next t) ∧
    (p.rst = false → p.inValid = true → p.inKind = 0 → step s = exec (.push [p.inData]) t) ∧
    (p.rst = false → p.inValid = true → p.inKind = 1 → step s = exec .eos t) ∧
    (p.rst = false → p.inValid = true → p.inKind = 2 → step s = exec (.srcerr p.inErr) t) ∧
    (p.rst = false → p.inValid = true → p.inKind = 3 →
      step s = exec .beatReserved t ∧ exec .beatReserved t = .next t)

/-- No operation and no step faults: no read or Consume past the buffer (R52, R53: "no rule calls it so"),
no ADVANCE that fails to end (R157). -/
def Obligations.NoOperationFaults : Prop :=
  (∀ (i : Instr) (s : State) (f : Fault), exec i s ≠ .fault f) ∧
  (∀ (s : State) (f : Fault), step s ≠ .fault f)

/-- An event is refused for two reasons only: a chunk past BUF_CAP, which is always refused (R51, R63), and
a count past 2^32 - 1 (R23). -/
def Obligations.EventsRefusedOnlyForCapacityOrCount : Prop :=
  (∀ (c : List Byte) (s : State) (cap : Nat), s.phase.isTerminal = false →
    s.params.bufCap = some cap → cap < s.buf.length + c.length →
    exec (.push c) s = .refused .bufCapExceeded) ∧
  (∀ (i : Instr) (s : State) (r : Refusal), i.isEvent = true → exec i s = .refused r →
    ∃ c, i = .push c ∧ s.phase.isTerminal = false ∧
      ((r = .bufCapExceeded ∧ ∃ cap, s.params.bufCap = some cap ∧
        cap < s.buf.length + c.length) ∨
       (r = .countOverflow ∧ 2 ^ 32 ≤ s.count.toNat + (s.buf.length + c.length) / 96)))

/-! ## Invariants -/

/-- R34: the reset values (first_chmode's 0 is log 3, the model's own fields logs 1, 2, 4, 7), and R158:
the reset state is a waiting state. -/
def Obligations.ResetStateValues : Prop :=
  State.reset.phase = .awaitingId3 ∧ State.reset.buf = [] ∧ State.reset.count = 0 ∧
  State.reset.outcome = .noResult ∧ State.reset.stop = false ∧ State.reset.pos = 0 ∧
  Waiting State.reset

/-- The invariant holds after reset (R34, R35). -/
def Obligations.ResetStateMeetsInvariant : Prop := BlockInv State.reset

/-- R35, R24, R158, R20: from every state that meets the invariant a step gives a state that meets it. -/
def Obligations.StepKeepsInvariant : Prop :=
  ∀ s t : State, BlockInv s → step s = .next t → BlockInv t

/-- R156, R25, R210: but for RESET no operation moves the phase backwards, and in a terminal phase none
changes anything of the block. -/
def Obligations.PhaseNeverGoesBackAndEndsHold : Prop :=
  ∀ (i : Instr) (s t : State), i ≠ .reset → exec i s = .next t →
    s.phase.code.toNat ≤ t.phase.code.toNat ∧
    (s.phase.isTerminal = true → blockState t = blockState s)

/-- R188, R26: within a scan `stop` rises once, in the transition that sets the outcome, and never falls. -/
def Obligations.StopRisesWithTheOutcome : Prop :=
  ∀ (i : Instr) (s t : State), i.isEvent = true → i ≠ .reset → BlockInv s → exec i s = .next t →
    (s.stop = true → t.stop = true ∧ t.outcome = s.outcome) ∧
    (s.stop = false → (t.stop = true ↔ t.outcome ≠ .noResult) ∧ s.outcome = .noResult)

/-- R162, R53: but for RESET no operation lowers the count or the position, and each counted frame has
consumed at least 96 bytes (R135). -/
def Obligations.CountedFramesAreConsumed : Prop :=
  ∀ (i : Instr) (s t : State), i ≠ .reset → exec i s = .next t →
    s.count.toNat ≤ t.count.toNat ∧
    s.pos + 96 * (t.count.toNat - s.count.toNat) ≤ t.pos

/-- R161: an event makes the outcome FormatError only as a PUSH before the first header is accepted, and no
frame is counted by it. -/
def Obligations.FormatErrorOnlyFromTheFirstHeader : Prop :=
  ∀ (i : Instr) (s t : State), i.isEvent = true → exec i s = .next t →
    s.outcome ≠ .formatError → t.outcome = .formatError →
    (∃ c, i = .push c) ∧ (s.phase = .awaitingId3 ∨ s.phase = .awaitingFirstFrameHeader) ∧
    t.phase = .failed ∧ t.count = s.count

/-- R54: while the scan runs, the buffer is the unconsumed suffix of the stream received so far, and PUSH
keeps it so. -/
def Obligations.BufferIsTheUnconsumedSuffix : Prop :=
  ∀ (stream c : List Byte) (s t : State), s.phase.isTerminal = false → SuffixOf stream s →
    exec (.push c) s = .next t → t.phase.isTerminal = false → SuffixOf (stream ++ c) t

/-- R62: the threshold of every phase is bounded; a running scan holds fewer bytes than its threshold
between events, and fewer than threshold + |c| just after the Append. -/
def Obligations.BufferStaysBelowThreshold : Prop :=
  (∀ s : State, threshold s ≤ thresholdLimit s) ∧
  (∀ (c : List Byte) (s : State), BlockInv s → s.phase.isTerminal = false →
    s.buf.length < threshold s ∧ (s.buf ++ c).length < threshold s + c.length) ∧
  (∀ (c : List Byte) (s t : State), exec (.push c) s = .next t → t.phase.isTerminal = false →
    t.buf.length < threshold t)

/-- R31, R187: while the scan runs the outputs say nothing; at the end they show the outcome. -/
def Obligations.OutputsShowTheOutcomeOnlyAtTheEnd : Prop :=
  ∀ s : State, BlockInv s →
    (s.phase.isTerminal = false →
      (outputs s).outValid = false ∧ (outputs s).outKind = 0 ∧ (outputs s).stop = false) ∧
    (s.phase = .done →
      (outputs s).outValid = true ∧ (outputs s).outKind = 1 ∧ (outputs s).stop = true ∧
      s.outcome = .count (outputs s).outCount) ∧
    (s.phase = .failed →
      (outputs s).outValid = true ∧ (outputs s).stop = true ∧
      ((s.outcome = .formatError ∧ (outputs s).outKind = 2) ∨
       (s.outcome = .ioFailure (outputs s).outErr ∧ (outputs s).outKind = 3)))

/-! ## What is not read -/

/-- R59: a step reads only the listed offsets: two buffers of one length that agree there give the same
step, up to the bytes that are left. -/
def Obligations.StepsReadOnlyTheListedOffsets : Prop :=
  ∀ (i : Instr) (s t : State) (other : List Byte),
    (i = .stepId3 ∨ i = .stepFirst ∨ i = .stepVbr ∨ i = .stepScan) →
    other.length = s.buf.length →
    (∀ k ∈ readOffsets s, byteAt other k = byteAt s.buf k) →
    exec i s = .next t →
    ∃ t', exec i { s with buf := other } = .next t' ∧ { t' with buf := t.buf } = t ∧
      t'.buf.length = t.buf.length

/-- R24: outside AwaitingVBRDecision no operation reads `first_chmode`: with another value there an
operation does the same, and either writes the same value or leaves the other one. -/
def Obligations.ChannelModeReadOnlyInTheVbrPhase : Prop :=
  ∀ (i : Instr) (s : State) (cm : BitVec 2), s.phase ≠ .awaitingVbrDecision →
    exec i (withChmode cm s) = exec i s ∨
    ∃ t, exec i s = .next t ∧ exec i (withChmode cm s) = .next (withChmode cm t)

/-- The model's own fields (logs 1, 2, 4) have no part in what the block does: states equal but for them
give states equal but for them, or the same stop. RESET alone reads the free-value counter. -/
def Obligations.ModelFieldsDoNotReachTheBlock : Prop :=
  ∀ (i : Instr) (s t : State), i ≠ .reset → blockState s = blockState t →
    match exec i s, exec i t with
    | .next s', .next t' => blockState s' = blockState t'
    | .refused r, .refused r' => r = r'
    | .fault f, .fault f' => f = f'
    | _, _ => False

/-! ## Whole runs -/

/-- R159: how a stream is cut into chunks makes no difference to the state reached (with an unbounded
buffer, the spec's default, R63). -/
def Obligations.ChunkBoundariesDoNotMatter : Prop :=
  ∀ (s : State) (cs ds : List (List Byte)), s.params.bufCap = none → Settled s →
    cs.flatten = ds.flatten → pushAll cs s = pushAll ds s

/-- R191: a chunk is carried by the port as one DATA beat per byte, an empty chunk as no beat, with the
same result. -/
def Obligations.ChunkAsBeats : Prop :=
  (∀ (b : Byte) (e : Err), decode (.cycle ⟨false, true, 0, b, e⟩) = .instr (.push [b])) ∧
  ∀ (s : State) (c : List Byte), s.params.bufCap = none → Settled s →
    pushAll (c.map fun b => [b]) s = exec (.push c) s

/-- R2, R192: the run RESET, PUSH c1, ..., PUSH ck, EOS computes one function of the stream, given here
without events, phases or a buffer (`scanStream`, R61). The bound on the length is R23's. -/
def Obligations.RunComputesTheStreamFunction : Prop :=
  ∀ (s : State) (cs : List (List Byte)), s.params.bufCap = none →
    cs.flatten.length < 96 * 2 ^ 32 →
    resultOf (runAll (scanRun cs) s) = .next (scanStream cs.flatten)

/-- R192: a run that ends with EOS has an outcome; one that ends with SRCERR e has the outcome already
latched if the block ended the scan, and IoFailure(e) otherwise. -/
def Obligations.EndedRunHasItsOutcome : Prop :=
  ∀ (s t : State) (cs : List (List Byte)) (e : Err),
    runAll (.reset :: cs.map .push) s = .next t →
    resultOf (runAll (scanErrRun cs e) s) =
      .next (if t.phase.isTerminal then t.outcome else .ioFailure e) ∧
    resultOf (runAll (scanRun cs) s) =
      .next (if t.phase.isTerminal then t.outcome else .count t.count) ∧
    resultOf (runAll (scanRun cs) s) ≠ .next .noResult

/-- R163(a), R137: k frames with one valid header of a valid length, no VBR tag in the first, give
Count(k), in any chunking. -/
def Obligations.ConstantBitrateStreamCounts : Prop :=
  ∀ (s : State) (h : Word) (l : Nat) (frames cs : List (List Byte)), s.params.bufCap = none →
    hdrvalid h = true → framelenOf h = .bytes l →
    1 ≤ frames.length → frames.length < 2 ^ 32 →
    (∀ f ∈ frames, f.length = l ∧ f.take 4 = (wordBytes h).toList) →
    vbrTagAt (vbroff (hdrChannelMode h)) frames.flatten = false →
    cs.flatten = frames.flatten →
    cs.flatten.length = frames.length * l ∧
    resultOf (runAll (scanRun cs) s) = .next (.count (BitVec.ofNat 32 (cs.flatten.length / l)))

/-- R163(b): an ID3v2 tag before a stream of at least 10 bytes that does not itself begin with "ID3" makes
no difference to the outcome. The bound on the length is R23's. -/
def Obligations.TagMakesNoDifference : Prop :=
  ∀ (s : State) (v : BitVec 16) (f : Byte) (z : Bytes4) (body stream : List Byte)
    (cs ds : List (List Byte)), s.params.bufCap = none →
    body.length = (syncsafe z).toNat → startsWithId3 stream = false → 10 ≤ stream.length →
    stream.length < 96 * 2 ^ 32 →
    cs.flatten = id3HeaderBytes v f z ++ body ++ stream → ds.flatten = stream →
    resultOf (runAll (scanRun cs) s) = resultOf (runAll (scanRun ds) s)

/-- R163(c): a first frame of valid length with a VBR tag at its offset, then k whole frames and nothing
else, gives Count(k): the marker frame is not counted. -/
def Obligations.MarkerFrameIsNotCounted : Prop :=
  ∀ (s : State) (marker : List Byte) (frames cs : List (List Byte)), s.params.bufCap = none →
    IsWholeFrame marker → vbrTagAt (vbroff (hdrChannelMode (headerOf marker))) marker = true →
    (∀ f ∈ frames, IsWholeFrame f) → frames.length < 2 ^ 32 →
    cs.flatten = marker ++ frames.flatten →
    resultOf (runAll (scanRun cs) s) = .next (.count (BitVec.ofNat 32 frames.length))
end

