-- ==== Sys2Proof/Laws/State.lean ====
section
/-! SUPPORT. One lemma per field per update of State, true by rfl, so that no proof unfolds a record update. -/

namespace Sys2Proof.Machine

/-! ## terminate -/

@[simp] theorem terminate_phase (p : Phase) (o : ScanResult) (s : State) : (terminate p o s).phase = p := rfl
@[simp] theorem terminate_buf (p : Phase) (o : ScanResult) (s : State) : (terminate p o s).buf = [] := rfl
@[simp] theorem terminate_count (p : Phase) (o : ScanResult) (s : State) : (terminate p o s).count = s.count := rfl
@[simp] theorem terminate_firstChmode (p : Phase) (o : ScanResult) (s : State) : (terminate p o s).firstChmode = s.firstChmode := rfl
@[simp] theorem terminate_outcome (p : Phase) (o : ScanResult) (s : State) : (terminate p o s).outcome = o := rfl
@[simp] theorem terminate_stop (p : Phase) (o : ScanResult) (s : State) : (terminate p o s).stop = true := rfl
@[simp] theorem terminate_pos (p : Phase) (o : ScanResult) (s : State) : (terminate p o s).pos = s.pos := rfl
@[simp] theorem terminate_inbox (p : Phase) (o : ScanResult) (s : State) : (terminate p o s).inbox = s.inbox := rfl
@[simp] theorem terminate_opResult (p : Phase) (o : ScanResult) (s : State) : (terminate p o s).opResult = s.opResult := rfl
@[simp] theorem terminate_freeCtr (p : Phase) (o : ScanResult) (s : State) : (terminate p o s).freeCtr = s.freeCtr := rfl
@[simp] theorem terminate_params (p : Phase) (o : ScanResult) (s : State) : (terminate p o s).params = s.params := rfl

/-! ## endWithCount -/

@[simp] theorem endWithCount_phase (s : State) : (endWithCount s).phase = .done := rfl
@[simp] theorem endWithCount_buf (s : State) : (endWithCount s).buf = [] := rfl
@[simp] theorem endWithCount_count (s : State) : (endWithCount s).count = s.count := rfl
@[simp] theorem endWithCount_firstChmode (s : State) : (endWithCount s).firstChmode = s.firstChmode := rfl
@[simp] theorem endWithCount_outcome (s : State) : (endWithCount s).outcome = .count s.count := rfl
@[simp] theorem endWithCount_stop (s : State) : (endWithCount s).stop = true := rfl
@[simp] theorem endWithCount_pos (s : State) : (endWithCount s).pos = s.pos := rfl
@[simp] theorem endWithCount_inbox (s : State) : (endWithCount s).inbox = s.inbox := rfl
@[simp] theorem endWithCount_opResult (s : State) : (endWithCount s).opResult = s.opResult := rfl
@[simp] theorem endWithCount_freeCtr (s : State) : (endWithCount s).freeCtr = s.freeCtr := rfl
@[simp] theorem endWithCount_params (s : State) : (endWithCount s).params = s.params := rfl

/-! ## endWithFormatError -/

@[simp] theorem endWithFormatError_phase (s : State) : (endWithFormatError s).phase = .failed := rfl
@[simp] theorem endWithFormatError_buf (s : State) : (endWithFormatError s).buf = [] := rfl
@[simp] theorem endWithFormatError_count (s : State) : (endWithFormatError s).count = s.count := rfl
@[simp] theorem endWithFormatError_firstChmode (s : State) : (endWithFormatError s).firstChmode = s.firstChmode := rfl
@[simp] theorem endWithFormatError_outcome (s : State) : (endWithFormatError s).outcome = .formatError := rfl
@[simp] theorem endWithFormatError_stop (s : State) : (endWithFormatError s).stop = true := rfl
@[simp] theorem endWithFormatError_pos (s : State) : (endWithFormatError s).pos = s.pos := rfl
@[simp] theorem endWithFormatError_inbox (s : State) : (endWithFormatError s).inbox = s.inbox := rfl
@[simp] theorem endWithFormatError_opResult (s : State) : (endWithFormatError s).opResult = s.opResult := rfl
@[simp] theorem endWithFormatError_freeCtr (s : State) : (endWithFormatError s).freeCtr = s.freeCtr := rfl
@[simp] theorem endWithFormatError_params (s : State) : (endWithFormatError s).params = s.params := rfl

/-! ## endWithIoFailure -/

@[simp] theorem endWithIoFailure_phase (e : Err) (s : State) : (endWithIoFailure e s).phase = .failed := rfl
@[simp] theorem endWithIoFailure_buf (e : Err) (s : State) : (endWithIoFailure e s).buf = [] := rfl
@[simp] theorem endWithIoFailure_count (e : Err) (s : State) : (endWithIoFailure e s).count = s.count := rfl
@[simp] theorem endWithIoFailure_firstChmode (e : Err) (s : State) : (endWithIoFailure e s).firstChmode = s.firstChmode := rfl
@[simp] theorem endWithIoFailure_outcome (e : Err) (s : State) : (endWithIoFailure e s).outcome = .ioFailure e := rfl
@[simp] theorem endWithIoFailure_stop (e : Err) (s : State) : (endWithIoFailure e s).stop = true := rfl
@[simp] theorem endWithIoFailure_pos (e : Err) (s : State) : (endWithIoFailure e s).pos = s.pos := rfl
@[simp] theorem endWithIoFailure_inbox (e : Err) (s : State) : (endWithIoFailure e s).inbox = s.inbox := rfl
@[simp] theorem endWithIoFailure_opResult (e : Err) (s : State) : (endWithIoFailure e s).opResult = s.opResult := rfl
@[simp] theorem endWithIoFailure_freeCtr (e : Err) (s : State) : (endWithIoFailure e s).freeCtr = s.freeCtr := rfl
@[simp] theorem endWithIoFailure_params (e : Err) (s : State) : (endWithIoFailure e s).params = s.params := rfl

/-! ## resetBlock -/

@[simp] theorem resetBlock_phase (s : State) : (resetBlock s).phase = .awaitingId3 := rfl
@[simp] theorem resetBlock_buf (s : State) : (resetBlock s).buf = [] := rfl
@[simp] theorem resetBlock_count (s : State) : (resetBlock s).count = 0 := rfl
@[simp] theorem resetBlock_firstChmode (s : State) : (resetBlock s).firstChmode = Config.freeChmode s.freeCtr := rfl
@[simp] theorem resetBlock_outcome (s : State) : (resetBlock s).outcome = .noResult := rfl
@[simp] theorem resetBlock_stop (s : State) : (resetBlock s).stop = false := rfl
@[simp] theorem resetBlock_pos (s : State) : (resetBlock s).pos = 0 := rfl
@[simp] theorem resetBlock_inbox (s : State) : (resetBlock s).inbox = s.inbox := rfl
@[simp] theorem resetBlock_opResult (s : State) : (resetBlock s).opResult = .nothing := rfl
@[simp] theorem resetBlock_freeCtr (s : State) : (resetBlock s).freeCtr = s.freeCtr + 1 := rfl
@[simp] theorem resetBlock_params (s : State) : (resetBlock s).params = s.params := rfl

/-! ## withResult -/

@[simp] theorem withResult_phase (r : OpResult) (s : State) : (withResult r s).phase = s.phase := rfl
@[simp] theorem withResult_buf (r : OpResult) (s : State) : (withResult r s).buf = s.buf := rfl
@[simp] theorem withResult_count (r : OpResult) (s : State) : (withResult r s).count = s.count := rfl
@[simp] theorem withResult_firstChmode (r : OpResult) (s : State) : (withResult r s).firstChmode = s.firstChmode := rfl
@[simp] theorem withResult_outcome (r : OpResult) (s : State) : (withResult r s).outcome = s.outcome := rfl
@[simp] theorem withResult_stop (r : OpResult) (s : State) : (withResult r s).stop = s.stop := rfl
@[simp] theorem withResult_pos (r : OpResult) (s : State) : (withResult r s).pos = s.pos := rfl
@[simp] theorem withResult_inbox (r : OpResult) (s : State) : (withResult r s).inbox = s.inbox := rfl
@[simp] theorem withResult_opResult (r : OpResult) (s : State) : (withResult r s).opResult = r := rfl
@[simp] theorem withResult_freeCtr (r : OpResult) (s : State) : (withResult r s).freeCtr = s.freeCtr := rfl
@[simp] theorem withResult_params (r : OpResult) (s : State) : (withResult r s).params = s.params := rfl

/-! ## acceptFirst -/

@[simp] theorem acceptFirst_phase (h : Word) (s : State) : (acceptFirst h s).phase = .awaitingVbrDecision := rfl
@[simp] theorem acceptFirst_buf (h : Word) (s : State) : (acceptFirst h s).buf = s.buf := rfl
@[simp] theorem acceptFirst_count (h : Word) (s : State) : (acceptFirst h s).count = s.count := rfl
@[simp] theorem acceptFirst_firstChmode (h : Word) (s : State) : (acceptFirst h s).firstChmode = hdrChannelMode h := rfl
@[simp] theorem acceptFirst_outcome (h : Word) (s : State) : (acceptFirst h s).outcome = s.outcome := rfl
@[simp] theorem acceptFirst_stop (h : Word) (s : State) : (acceptFirst h s).stop = s.stop := rfl
@[simp] theorem acceptFirst_pos (h : Word) (s : State) : (acceptFirst h s).pos = s.pos := rfl
@[simp] theorem acceptFirst_inbox (h : Word) (s : State) : (acceptFirst h s).inbox = s.inbox := rfl
@[simp] theorem acceptFirst_opResult (h : Word) (s : State) : (acceptFirst h s).opResult = s.opResult := rfl
@[simp] theorem acceptFirst_freeCtr (h : Word) (s : State) : (acceptFirst h s).freeCtr = s.freeCtr := rfl
@[simp] theorem acceptFirst_params (h : Word) (s : State) : (acceptFirst h s).params = s.params := rfl

end Sys2Proof.Machine
end

