-- ==== Sys2Proof/Laws/Ops.lean ====
section
/-! SUPPORT. One lemma per shared operation that says everything it can do, and the capacity law of the
buffer: every operation on it keeps `Memory.wf`. -/

namespace Sys2Proof.Machine

/-! ## Sequencing -/

@[simp] theorem andThen_next {α β : Type} (a : α) (f : α → Res β) :
    andThen (Host.Outcome.next a) f = f a := rfl

@[simp] theorem andThen_fault {α β : Type} (e : Fault) (f : α → Res β) :
    andThen (Host.Outcome.fault e) f = Host.Outcome.fault e := rfl

@[simp] theorem andThen_refused {α β : Type} (e : Refusal) (f : α → Res β) :
    andThen (Host.Outcome.refused e) f = Host.Outcome.refused e := rfl

/-- What answers next ran both parts to the end. -/
theorem andThen_eq_next {α β : Type} {r : Res α} {f : α → Res β} {b : β} :
    andThen r f = .next b ↔ ∃ a, r = .next a ∧ f a = .next b := by
  cases r <;> simp

/-- A fault comes from one of the two parts. -/
theorem andThen_eq_fault {α β : Type} {r : Res α} {f : α → Res β} {e : Fault} :
    andThen r f = .fault e ↔ r = .fault e ∨ ∃ a, r = .next a ∧ f a = .fault e := by
  cases r <;> simp

/-- A refusal comes from one of the two parts. -/
theorem andThen_eq_refused {α β : Type} {r : Res α} {f : α → Res β} {e : Refusal} :
    andThen r f = .refused e ↔ r = .refused e ∨ ∃ a, r = .next a ∧ f a = .refused e := by
  cases r <;> simp

/-- Sequencing is associative. -/
theorem andThen_assoc {α β γ : Type} (r : Res α) (f : α → Res β) (g : β → Res γ) :
    andThen (andThen r f) g = andThen r fun a => andThen (f a) g := by
  cases r <;> rfl

/-! ## Bytes by offset -/

/-- A short list is known by its entries. -/
theorem take4_drop_eq {buf : List Byte} {off : Nat} (h : off + 4 ≤ buf.length) :
    (buf.drop off).take 4 = (bytesAt buf off).toList := by
  apply List.ext_getElem
  · simp [Bytes4.toList]; omega
  · intro k h1 h2
    simp only [Bytes4.toList, List.length_cons, List.length_nil] at h2
    have hk : k = 0 ∨ k = 1 ∨ k = 2 ∨ k = 3 := by omega
    rcases hk with rfl | rfl | rfl | rfl <;>
      simp only [bytesAt, byteAt, Bytes4.toList, List.getElem_take, List.getElem_drop,
        List.getElem_cons_zero, List.getElem_cons_succ, Nat.add_zero] <;>
      rw [List.getD_eq_getElem]

theorem take4_eq {buf : List Byte} (h : 4 ≤ buf.length) :
    buf.take 4 = (bytesAt buf 0).toList := by
  simpa using take4_drop_eq (buf := buf) (off := 0) (by omega)

@[simp] theorem bytes4?_toList (b : Bytes4) : bytes4? b.toList = some b := rfl

theorem toList_injective {a b : Bytes4} (h : a.toList = b.toList) : a = b := by
  cases a; cases b; simpa [Bytes4.toList] using h

/-! ## The Pending Buffer -/

/-- BufRead inside the buffer answers the bytes at the offset (R52). -/
theorem bufRead_of_le {buf : List Byte} {off n : Nat} (h : off + n ≤ buf.length) :
    bufRead buf off n = .next ((buf.drop off).take n) := if_pos h

/-- BufRead(off, 4) inside the buffer answers the four bytes at the offset (R52). -/
theorem bufRead4_of_le {buf : List Byte} {off : Nat} (h : off + 4 ≤ buf.length) :
    bufRead4 buf off = .next (bytesAt buf off) := by
  simp [bufRead4, bufRead_of_le h, take4_drop_eq h]

/-- The header at the front, once four bytes are there (R88). -/
theorem frontHeader_of_le {buf : List Byte} (h : 4 ≤ buf.length) :
    frontHeader buf = .next (headerOf buf) := by
  simp [frontHeader, bufRead4_of_le (show 0 + 4 ≤ buf.length by omega), headerOf]

/-- The size bytes, once ten bytes are there (R89). -/
theorem sizeBytes_of_le {buf : List Byte} (h : 10 ≤ buf.length) :
    sizeBytes buf = .next (bytesAt buf 6) :=
  bufRead4_of_le (show 6 + 4 ≤ buf.length by omega)

/-- Consume inside the buffer drops from the front and moves `pos` on by as much (R53). -/
theorem consume_of_le {n : Nat} {s : State} (h : n ≤ s.buf.length) :
    consume n s = .next { s with buf := s.buf.drop n, pos := s.pos + n } := if_pos h

/-- Append answers next exactly within the capacity, and appends at the back (R51). -/
theorem append_eq_next {c : List Byte} {s t : State} :
    append c s = .next t ↔
      fitsCap s.params (s.buf.length + c.length) = true ∧ t = { s with buf := s.buf ++ c } := by
  unfold append
  split <;> rename_i h <;> simp [h, eq_comm]

/-- Counting answers next exactly below 2^32 - 1 and adds one (R23). -/
theorem countFrame_eq_next {s t : State} :
    countFrame s = .next t ↔ s.count ≠ 0xFFFFFFFF#32 ∧ t = { s with count := s.count + 1 } := by
  unfold countFrame
  split <;> rename_i h
  · simp [h]
  · simp only [Host.Outcome.next.injEq, ne_eq, h, not_false_eq_true, true_and]
    exact eq_comm

/-! ## The capacity law -/

/-- A smaller buffer is within the same capacity. -/
theorem fitsCap_mono {p : Config.Params} {m n : Nat} (h : m ≤ n) (hn : fitsCap p n = true) :
    fitsCap p m = true := by
  cases p with
  | mk cap => cases cap <;> simp_all [fitsCap]; omega

/-- The empty buffer has the legal form. -/
@[simp] theorem wf_nil (p : Config.Params) : Memory.wf p [] = true := by
  cases p with
  | mk cap => cases cap <;> simp [Memory.wf, fitsCap]

/-- Append keeps the legal form. -/
theorem append_wf {c : List Byte} {s t : State} (h : append c s = .next t) :
    Memory.wf t.params t.buf = true := by
  obtain ⟨hc, rfl⟩ := append_eq_next.1 h
  simpa [Memory.wf] using hc

/-- Consume keeps the legal form. -/
theorem consume_wf {n : Nat} {s t : State} (h : consume n s = .next t)
    (hs : Memory.wf s.params s.buf = true) : Memory.wf t.params t.buf = true := by
  unfold consume at h
  split at h
  · cases h
    exact fitsCap_mono (by simp) hs
  · cases h

/-- TERMINATE leaves a buffer of the legal form. -/
theorem terminate_wf (p : Phase) (o : ScanResult) (s : State) :
    Memory.wf (terminate p o s).params (terminate p o s).buf = true := wf_nil _

/-- The reset state's buffer has the legal form. -/
theorem reset_wf : Memory.wf State.reset.params State.reset.buf = true := rfl

/-- RESET leaves a buffer of the legal form. -/
theorem resetBlock_wf (s : State) :
    Memory.wf (resetBlock s).params (resetBlock s).buf = true := wf_nil _

end Sys2Proof.Machine
end

