-- ==== Sys2Proof/Laws/Scanner.lean ====
section
/-! SUPPORT. What each step does, with no read left to unfold: one equation per step, in the bytes at their
offsets (R152 to R155); then what ADVANCE's loop does with one step. -/

namespace Sys2Proof.Machine

theorem take3_eq_magic {buf : List Byte} :
    (buf.take 3 = id3MagicBytes) ↔ startsWithId3 buf = true := by
  simp [startsWithId3]

/-- STEP_ID3 (R152). -/
theorem stepId3_eq (s : State) :
    stepId3 s =
      if s.buf.length < 10 then .next .wait
      else if startsWithId3 s.buf then
        if s.buf.length < tagskip (bytesAt s.buf 6) then .next .wait
        else .next (.moved { s with
          buf := s.buf.drop (tagskip (bytesAt s.buf 6))
          pos := s.pos + tagskip (bytesAt s.buf 6)
          phase := .awaitingFirstFrameHeader })
      else .next (.moved { s with phase := .awaitingFirstFrameHeader }) := by
  unfold stepId3
  by_cases h : s.buf.length < 10
  · simp [h, id3HdrBytes]
  · have h10 : 10 ≤ s.buf.length := by omega
    simp only [id3HdrBytes, h, if_false]
    rw [bufRead_of_le (by omega), andThen_next, List.drop_zero]
    by_cases hm : startsWithId3 s.buf = true
    · rw [if_pos (take3_eq_magic.2 hm), if_pos hm, sizeBytes_of_le h10, andThen_next]
      by_cases hs : s.buf.length < tagskip (bytesAt s.buf 6)
      · simp [hs]
      · simp [hs, consume_of_le (show tagskip (bytesAt s.buf 6) ≤ s.buf.length by omega)]
    · rw [if_neg (mt take3_eq_magic.1 hm), if_neg hm]

/-- STEP_FIRST (R153). -/
theorem stepFirst_eq (s : State) :
    stepFirst s =
      if s.buf.length < 4 then .next .wait
      else if hdrvalid (headerOf s.buf) then .next (.moved (acceptFirst (headerOf s.buf) s))
      else .next (.ended (endWithFormatError s)) := by
  unfold stepFirst
  by_cases h : s.buf.length < 4
  · simp [h, hdrBytes]
  · simp [h, hdrBytes, frontHeader_of_le (show 4 ≤ s.buf.length by omega)]

theorem vbroff_pos (cm : BitVec 2) : vbroff cm = 21 ∨ vbroff cm = 36 := by
  unfold vbroff
  split <;> simp [hdrBytes, sideMono, sideOther]

/-- The skipping of a marker frame (R154). -/
theorem skipMarker_eq (h : Word) (s : State) :
    skipMarker h s =
      match framelenOf h with
      | .invalid => .next (.moved { s with phase := .scanningFrames })
      | .bytes l =>
        if s.buf.length < l then .next .wait
        else .next (.moved { s with
          buf := s.buf.drop l, pos := s.pos + l, phase := .scanningFrames }) := by
  unfold skipMarker
  cases framelenOf h with
  | invalid => rfl
  | bytes l =>
    by_cases hl : s.buf.length < l
    · simp [hl]
    · simp [hl, consume_of_le (show l ≤ s.buf.length by omega)]

/-- STEP_VBR (R154). -/
theorem stepVbr_eq (s : State) :
    stepVbr s =
      if s.buf.length < vbroff s.firstChmode + 12 then .next .wait
      else if vbrTagAt (vbroff s.firstChmode) s.buf then skipMarker (headerOf s.buf) s
      else .next (.moved { s with phase := .scanningFrames }) := by
  unfold stepVbr
  by_cases h : s.buf.length < vbroff s.firstChmode + 12
  · simp [h, vbrWaitExtra]
  · have h4 : 4 ≤ s.buf.length := by omega
    simp only [vbrWaitExtra, h, if_false]
    rw [bufRead4_of_le (by omega), andThen_next, frontHeader_of_le h4, andThen_next]
    simp [vbrTagAt]

/-- The counting of a frame (R155), refused at 2^32 - 1 (R23). -/
theorem scanFrame_eq (h : Word) (s : State) :
    scanFrame h s =
      match framelenOf h with
      | .invalid => .next (.ended (endWithCount s))
      | .bytes l =>
        if s.buf.length < l then .next .wait
        else if s.count = 0xFFFFFFFF#32 then .refused .countOverflow
        else .next (.moved { s with
          buf := s.buf.drop l, pos := s.pos + l, count := s.count + 1 }) := by
  unfold scanFrame
  cases framelenOf h with
  | invalid => rfl
  | bytes l =>
    by_cases hl : s.buf.length < l
    · simp [hl]
    · by_cases hc : s.count = 0xFFFFFFFF#32 <;>
        simp [hl, consume_of_le (show l ≤ s.buf.length by omega), countFrame, hc]

/-- STEP_SCAN (R155). -/
theorem stepScan_eq (s : State) :
    stepScan s =
      if s.buf.length < 4 then .next .wait
      else if hdrvalid (headerOf s.buf) then scanFrame (headerOf s.buf) s
      else .next (.ended (endWithCount s)) := by
  unfold stepScan
  by_cases h : s.buf.length < 4
  · simp [h, hdrBytes]
  · simp [h, hdrBytes, frontHeader_of_le (show 4 ≤ s.buf.length by omega)]

/-! ## ADVANCE's loop -/

/-- One round of the loop (R150). -/
theorem advanceLoop_succ (n : Nat) (s : State) :
    advanceLoop (n + 1) s =
      andThen (stepOfPhase s) fun
        | .moved t => advanceLoop n t
        | .wait => .next s
        | .ended t => .next t := rfl

/-- A step that moved makes the loop go round with the new state. -/
theorem advanceLoop_moved {n : Nat} {s t : State} (h : stepOfPhase s = .next (.moved t)) :
    advanceLoop (n + 1) s = advanceLoop n t := by
  rw [advanceLoop_succ, h]; rfl

/-- A step that waits ends the loop where it is. -/
theorem advanceLoop_wait {n : Nat} {s : State} (h : stepOfPhase s = .next .wait) :
    advanceLoop (n + 1) s = .next s := by
  rw [advanceLoop_succ, h]; rfl

/-- A step that ended the scan ends the loop. -/
theorem advanceLoop_ended {n : Nat} {s t : State} (h : stepOfPhase s = .next (.ended t)) :
    advanceLoop (n + 1) s = .next t := by
  rw [advanceLoop_succ, h]; rfl

end Sys2Proof.Machine
end

