-- ==== Sys2Proof/Laws/Advance.lean ====
section
/-! SUPPORT. What one step of a phase can do, said once (R151 to R155), and ADVANCE as the repetition of it
(R150, R157), with the induction along ADVANCE that the invariants are proved by. -/

namespace Sys2Proof.Machine

/-- A frame length that is not Invalid lies between 96 and 1441 (R135). -/
theorem framelen_bounds {bi : BitVec 4} {si : BitVec 2} {p : BitVec 1} {l : Nat}
    (h : framelen bi si p = .bytes l) : 96 ≤ l ∧ l ≤ 1441 := by
  have key : ∀ (bi : BitVec 4) (si : BitVec 2) (p : BitVec 1),
      (match framelen bi si p with
        | .invalid => true
        | .bytes l => decide (96 ≤ l ∧ l ≤ 1441)) = true := by decide
  have := key bi si p
  rw [h] at this
  simpa using this

theorem framelenOf_bounds {h : Word} {l : Nat} (hl : framelenOf h = .bytes l) : 96 ≤ l ∧ l ≤ 1441 :=
  framelen_bounds hl

/-- Everything a step that moved can have done: bytes taken from the front, the phase moved on or a frame
counted, the channel mode captured in one phase only; all else as it was. -/
theorem stepOfPhase_moved {s t : State} (h : stepOfPhase s = .next (.moved t)) :
    ∃ n ph cm ct, n ≤ s.buf.length ∧
      t = { s with
        buf := s.buf.drop n, pos := s.pos + n, phase := ph, firstChmode := cm, count := ct } ∧
      (cm ≠ s.firstChmode → s.phase = .awaitingFirstFrameHeader) ∧
      s.phase.isTerminal = false ∧ ph.isTerminal = false ∧
      ((s.phase.code.toNat < ph.code.toNat ∧ ct = s.count) ∨
        (s.phase = .scanningFrames ∧ ph = .scanningFrames ∧ 96 ≤ n ∧ s.count ≠ 0xFFFFFFFF#32 ∧
          ct = s.count + 1)) := by
  unfold stepOfPhase at h
  split at h
  · rename_i hp
    rw [stepId3_eq] at h
    split at h <;> try cases h
    split at h
    · split at h <;> cases h
      exact ⟨_, _, _, _, by omega, rfl, by simp, by simp [hp, Phase.isTerminal, Phase.code]⟩
    · cases h
      exact ⟨0, _, _, _, by omega, rfl, by simp, by simp [hp, Phase.isTerminal, Phase.code]⟩
  · rename_i hp
    rw [stepFirst_eq] at h
    split at h <;> try cases h
    split at h <;> cases h
    exact ⟨0, _, _, _, by omega, rfl, by simp [hp],
      by simp [hp, Phase.isTerminal, Phase.code]⟩
  · rename_i hp
    rw [stepVbr_eq, skipMarker_eq] at h
    split at h <;> try cases h
    split at h
    · split at h
      · cases h
        exact ⟨0, _, _, _, by omega, rfl, by simp, by simp [hp, Phase.isTerminal, Phase.code]⟩
      · split at h <;> cases h
        exact ⟨_, _, _, _, by omega, rfl, by simp, by simp [hp, Phase.isTerminal, Phase.code]⟩
    · cases h
      exact ⟨0, _, _, _, by omega, rfl, by simp, by simp [hp, Phase.isTerminal, Phase.code]⟩
  · rename_i hp
    rw [stepScan_eq, scanFrame_eq] at h
    split at h <;> try cases h
    split at h <;> try cases h
    split at h <;> try cases h
    rename_i l hl
    split at h <;> try cases h
    split at h <;> cases h
    have := (framelenOf_bounds hl).1
    exact ⟨_, _, _, _, by omega, rfl, by simp, by simp [Phase.isTerminal, *]⟩
  · cases h
  · cases h

/-- A step that ended the scan did so by one of the two terminal transitions. -/
theorem stepOfPhase_ended {s t : State} (h : stepOfPhase s = .next (.ended t)) :
    (s.phase = .awaitingFirstFrameHeader ∧ t = endWithFormatError s) ∨
      (s.phase = .scanningFrames ∧ t = endWithCount s) := by
  unfold stepOfPhase at h
  split at h
  · rw [stepId3_eq] at h
    repeat' split at h
    all_goals simp at h
  · rw [stepFirst_eq] at h
    repeat' split at h
    all_goals simp at h
    simp_all
  · rw [stepVbr_eq, skipMarker_eq] at h
    repeat' split at h
    all_goals simp at h
  · rw [stepScan_eq, scanFrame_eq] at h
    repeat' split at h
    all_goals simp at h
    all_goals simp_all
  · simp at h
  · simp at h

/-- No step faults. -/
theorem stepOfPhase_ne_fault (s : State) (f : Fault) : stepOfPhase s ≠ .fault f := by
  unfold stepOfPhase
  split
  · rw [stepId3_eq]; repeat' split
    all_goals simp
  · rw [stepFirst_eq]; repeat' split
    all_goals simp
  · rw [stepVbr_eq, skipMarker_eq]; repeat' split
    all_goals simp
  · rw [stepScan_eq, scanFrame_eq]; repeat' split
    all_goals simp
  · simp
  · simp

/-- A step is refused for one reason only: a whole frame at the last count. -/
theorem stepOfPhase_refused {s : State} {r : Refusal} (h : stepOfPhase s = .refused r) :
    r = .countOverflow ∧ s.count = 0xFFFFFFFF#32 ∧ s.phase = .scanningFrames ∧
      96 ≤ s.buf.length := by
  unfold stepOfPhase at h
  split at h
  · rw [stepId3_eq] at h
    repeat' split at h
    all_goals simp at h
  · rw [stepFirst_eq] at h
    repeat' split at h
    all_goals simp at h
  · rw [stepVbr_eq, skipMarker_eq] at h
    repeat' split at h
    all_goals simp at h
  · rename_i hp
    rw [stepScan_eq, scanFrame_eq] at h
    split at h <;> try cases h
    split at h <;> try cases h
    split at h <;> try cases h
    rename_i l hl
    split at h <;> try cases h
    split at h <;> cases h
    have := framelenOf_bounds hl
    exact ⟨rfl, by assumption, hp, by omega⟩
  · simp at h
  · simp at h

/-- A bound on the rounds still to come: each one moves the phase on or takes at least 96 bytes. -/
def rounds (s : State) : Nat := (3 - s.phase.code.toNat) + s.buf.length / 96 + 1

theorem code_le_three {p : Phase} (h : p.isTerminal = false) : p.code.toNat ≤ 3 := by
  cases p <;> simp_all [Phase.isTerminal, Phase.code]

theorem rounds_le_advanceBound (s : State) : rounds s ≤ advanceBound s := by
  unfold rounds advanceBound
  omega

/-- A step that moved leaves fewer rounds. -/
theorem rounds_moved {s t : State} (h : stepOfPhase s = .next (.moved t)) :
    rounds t + 1 ≤ rounds s := by
  obtain ⟨n, ph, cm, ct, hn, rfl, -, hs, ht, hm⟩ := stepOfPhase_moved h
  have h1 := code_le_three hs
  have h2 := code_le_three ht
  simp only [rounds, List.length_drop]
  rcases hm with ⟨hlt, -⟩ | ⟨he, rfl, h96, -⟩
  · have := Nat.div_le_div_right (c := 96) (Nat.sub_le s.buf.length n)
    omega
  · rw [he]
    omega

/-- Enough rounds are as good as any larger number. -/
theorem advanceLoop_enough : ∀ (n m : Nat) (s : State), rounds s ≤ n → rounds s ≤ m →
    advanceLoop n s = advanceLoop m s := by
  intro n
  induction n with
  | zero => intro m s h; unfold rounds at h; omega
  | succ n ih =>
    intro m s h1 h2
    cases m with
    | zero => unfold rounds at h2; omega
    | succ m =>
      cases h : stepOfPhase s with
      | next o =>
        cases o with
        | moved t =>
          have := rounds_moved h
          rw [advanceLoop_moved h, advanceLoop_moved h]
          exact ih _ _ (by omega) (by omega)
        | wait => rw [advanceLoop_wait h, advanceLoop_wait h]
        | ended t => rw [advanceLoop_ended h, advanceLoop_ended h]
      | fault f => exact absurd h (stepOfPhase_ne_fault _ _)
      | refused r => rw [advanceLoop_succ, advanceLoop_succ, h]; rfl

/-- ADVANCE is one step, and ADVANCE again where it moved (R150): no fuel left to reason about. -/
theorem advance_eq (s : State) :
    advance s = andThen (stepOfPhase s) fun
      | .moved t => advance t
      | .wait => .next s
      | .ended t => .next t := by
  have hb := rounds_le_advanceBound s
  have h1 : advance s = advanceLoop (rounds s + 1) s :=
    advanceLoop_enough _ _ _ (by omega) (by omega)
  rw [h1]
  cases h : stepOfPhase s with
  | next o =>
    cases o with
    | moved t =>
      rw [advanceLoop_moved h]
      have := rounds_moved h
      exact advanceLoop_enough _ _ _ (by omega) (rounds_le_advanceBound t)
    | wait => rw [advanceLoop_wait h]; rfl
    | ended t => rw [advanceLoop_ended h]; rfl
  | fault f => exact absurd h (stepOfPhase_ne_fault _ _)
  | refused r => rw [advanceLoop_succ, h]; rfl

/-- Induction along ADVANCE: what holds where the loop stops, and is carried back over a step that moved,
holds of every start and its answer. -/
theorem advance_induction {P : State → Res State → Prop}
    (wait : ∀ s, stepOfPhase s = .next .wait → P s (.next s))
    (ended : ∀ s t, stepOfPhase s = .next (.ended t) → P s (.next t))
    (refused : ∀ s r, stepOfPhase s = .refused r → P s (.refused r))
    (moved : ∀ s t, stepOfPhase s = .next (.moved t) → P t (advance t) → P s (advance t)) :
    ∀ s, P s (advance s) := by
  have key : ∀ n s, rounds s ≤ n → P s (advance s) := by
    intro n
    induction n with
    | zero => intro s h; unfold rounds at h; omega
    | succ n ih =>
      intro s hs
      rw [advance_eq]
      cases h : stepOfPhase s with
      | next o =>
        cases o with
        | moved t => exact moved _ _ h (ih _ (by have := rounds_moved h; omega))
        | wait => exact wait _ h
        | ended t => exact ended _ _ h
      | fault f => exact absurd h (stepOfPhase_ne_fault _ _)
      | refused r => exact refused _ _ h
  exact fun s => key _ s le_rfl

end Sys2Proof.Machine
end

