-- ==== Sys2Proof/Laws/Decode.lean ====
section
/-! SUPPORT. Byte order both ways, bit by bit (R55, R81), and a header at the buffer front (R88). -/

namespace Sys2Proof

/-- The bytes of a word, put together again, are the word. -/
@[simp] theorem be32_wordBytes (h : Word) : be32 (wordBytes h) = h := by
  apply BitVec.eq_of_getLsbD_eq
  intro i hi
  simp only [be32, wordBytes, BitVec.getLsbD_or, BitVec.getLsbD_shiftLeft, BitVec.getLsbD_setWidth,
    BitVec.getLsbD_extractLsb', hi]
  have hr : i < 8 ∨ (8 ≤ i ∧ i < 16) ∨ (16 ≤ i ∧ i < 24) ∨ 24 ≤ i := by omega
  rcases hr with h0 | ⟨h0, h1⟩ | ⟨h0, h1⟩ | h0
  · simp [h0]; omega
  · simp [show ¬ i < 8 by omega, h1, show i - 8 < 8 by omega, show 8 + (i - 8) = i by omega,
      show i - 8 < 32 by omega]; omega
  · simp [show ¬ i < 8 by omega, show ¬ i < 16 by omega, h1, show ¬ i - 8 < 8 by omega,
      show i - 16 < 8 by omega, show 16 + (i - 16) = i by omega, show i - 16 < 32 by omega]
  · simp [show ¬ i < 8 by omega, show ¬ i < 16 by omega, show ¬ i < 24 by omega,
      show ¬ i - 8 < 8 by omega, show ¬ i - 16 < 8 by omega, show i - 24 < 8 by omega,
      show 24 + (i - 24) = i by omega, show i - 24 < 32 by omega]

/-- The word of four bytes, taken apart again, is the four bytes. -/
@[simp] theorem wordBytes_be32 (b : Bytes4) : wordBytes (be32 b) = b := by
  obtain ⟨b0, b1, b2, b3⟩ := b
  simp only [be32, wordBytes, Bytes4.mk.injEq]
  refine ⟨?_, ?_, ?_, ?_⟩ <;> ext i hi <;> interval_cases i <;> simp

/-- A header stands at the front of a buffer of at least four bytes, and nowhere else. -/
theorem take4_eq_wordBytes {buf : List Byte} {h : Word} :
    buf.take 4 = (wordBytes h).toList ↔ 4 ≤ buf.length ∧ Machine.headerOf buf = h := by
  constructor
  · intro hh
    have hl : 4 ≤ buf.length := by
      have := congrArg List.length hh
      simp [Bytes4.toList] at this
      omega
    refine ⟨hl, ?_⟩
    rw [Machine.take4_eq hl] at hh
    rw [Machine.headerOf, Machine.toList_injective hh, be32_wordBytes]
  · rintro ⟨hl, rfl⟩
    rw [Machine.take4_eq hl, Machine.headerOf, wordBytes_be32]

end Sys2Proof
end

