-- ==== Sys2Proof/Laws/PerInstr.lean ====
section
/-! SUPPORT. Per constructor: the operation's coded form is something the source can offer exactly when the
operation is an event (R180, R190, log 1). -/

namespace Sys2Proof.Laws.HostInputs

/-- The coded form is the source's exactly when the operation is an event. -/
def Statement (i : Instr) : Prop := (encode i).isHostInput = i.isEvent

theorem hdrValid (h : Word) : Statement (.hdrValid h) := rfl
theorem hdrInvalidFirst (h : Word) : Statement (.hdrInvalidFirst h) := rfl
theorem hdrInvalidLater (h : Word) : Statement (.hdrInvalidLater h) := rfl
theorem hdrLenReservedBr0 (h : Word) : Statement (.hdrLenReservedBr0 h) := rfl
theorem hdrLenReservedBr15 (h : Word) : Statement (.hdrLenReservedBr15 h) := rfl
theorem hdrLenReservedSr3 (h : Word) : Statement (.hdrLenReservedSr3 h) := rfl
theorem id3Magic (v : BitVec 16) (f : Byte) (z : Bytes4) : Statement (.id3Magic v f z) := rfl
theorem vbrXing : Statement .vbrXing := rfl
theorem vbrInfo : Statement .vbrInfo := rfl
theorem syncsafe (b : Bytes4) : Statement (.syncsafe b) := rfl
theorem hdrdec (h : Word) : Statement (.hdrdec h) := rfl
theorem hdrIsValid (h : Word) : Statement (.hdrIsValid h) := rfl
theorem framelen (bi : BitVec 4) (si : BitVec 2) (p : BitVec 1) : Statement (.framelen bi si p) := rfl
theorem vbroff (cm : BitVec 2) : Statement (.vbroff cm) := rfl
theorem tagskip (b : Bytes4) : Statement (.tagskip b) := rfl
theorem bitrate (k : BitVec 4) : Statement (.bitrate k) := rfl
theorem samplerate (k : BitVec 2) : Statement (.samplerate k) := rfl
theorem advance : Statement .advance := rfl
theorem stepId3 : Statement .stepId3 := rfl
theorem stepFirst : Statement .stepFirst := rfl
theorem stepVbr : Statement .stepVbr := rfl
theorem stepScan : Statement .stepScan := rfl
theorem terminate (p : EndPhase) (o : EndOutcome) : Statement (.terminate p o) := rfl
theorem reset : Statement .reset := rfl
theorem push (c : List Byte) : Statement (.push c) := rfl
theorem eos : Statement .eos := rfl
theorem srcerr (e : Err) : Statement (.srcerr e) := rfl
theorem beatReserved : Statement .beatReserved := rfl

end Sys2Proof.Laws.HostInputs
end

