-- ==== Sys2Proof/Laws/Units.lean ====
section
/-! SUPPORT. What an operation run by itself and a stream unit met at its place can answer: one lemma per
shared operation. -/

namespace Sys2Proof.Machine

/-- A step run by itself answers next exactly where the step does, with its kind recorded (log 2). -/
theorem runAlone_eq_next {r : Res StepOut} {s t : State} :
    runAlone r s = .next t ↔ ∃ o, r = .next o ∧ t = settleStep s o := by
  cases r <;> simp [runAlone, eq_comm]

/-- A step run by itself answers next in its own phase only. -/
theorem runInPhase_eq_next {p : Phase} {f : State → Res StepOut} {s t : State} :
    runInPhase p f s = .next t ↔ s.phase = p ∧ ∃ o, f s = .next o ∧ t = settleStep s o := by
  unfold runInPhase
  split <;> simp [*, runAlone_eq_next]

/-- In a terminal phase the step of the phase is no step (R185). -/
theorem runPhaseStep_of_terminal {s : State} (h : s.phase.isTerminal = true) :
    runPhaseStep s = .next s := if_pos h

/-- In a running scan it is the step the phase selects. -/
theorem runPhaseStep_of_running {s : State} (h : s.phase.isTerminal = false) :
    runPhaseStep s = runAlone (stepOfPhase s) s := if_neg (by simp [h])

/-- The step of a phase, run by itself in that phase, is the step of the phase. -/
theorem runInPhase_self (f : State → Res StepOut) (s : State) :
    runInPhase s.phase f s = runAlone (f s) s := if_pos rfl

/-- A header stands at the buffer front. -/
theorem headerAtFront_iff {h : Word} {s : State} :
    headerAtFront h s = true ↔ 4 ≤ s.buf.length ∧ headerOf s.buf = h := by
  rw [headerAtFront, beq_iff_eq]
  exact take4_eq_wordBytes

/-- A header unit acts as its row says where its header, of its kind, stands at the front of a running scan,
and is the step of the phase everywhere else. -/
theorem meetHeader_eq (kind : Bool) (h : Word) (act : Phase → Res StepOut) (s : State) :
    (s.phase.isTerminal = false → kind = true → 4 ≤ s.buf.length → headerOf s.buf = h →
      meetHeader kind h act s = runAlone (act s.phase) s) ∧
    (s.phase.isTerminal = true ∨ kind = false ∨ s.buf.length < 4 ∨ headerOf s.buf ≠ h →
      meetHeader kind h act s = runPhaseStep s) := by
  have hf := headerAtFront_iff (h := h) (s := s)
  constructor
  · intro ht hk hl hh
    simp [meetHeader, ht, hk, hf.2 ⟨hl, hh⟩]
  · rintro hn
    refine if_neg fun hc => ?_
    simp only [Bool.and_eq_true, Bool.not_eq_true', hf] at hc
    obtain ⟨⟨ht, hk⟩, hl, hh⟩ := hc
    rcases hn with h1 | h1 | h1 | h1
    · simp [ht] at h1
    · simp [hk] at h1
    · omega
    · exact h1 hh

/-- A VBR tag stands at its offset (R87). -/
theorem vbrTagMet_iff {tag : Bytes4} {s : State} :
    vbrTagMet tag s = true ↔ s.phase = .awaitingVbrDecision ∧
      vbroff s.firstChmode + 12 ≤ s.buf.length ∧ bytesAt s.buf (vbroff s.firstChmode) = tag := by
  simp only [vbrTagMet, vbrWaitExtra, vbrTagBytes, Bool.and_eq_true, beq_iff_eq]
  constructor
  · rintro ⟨⟨hp, hl⟩, ht⟩
    have hl := of_decide_eq_true hl
    rw [take4_drop_eq (by omega)] at ht
    exact ⟨hp, hl, toList_injective ht⟩
  · rintro ⟨hp, hl, rfl⟩
    exact ⟨⟨hp, decide_eq_true hl⟩, take4_drop_eq (by omega)⟩

/-- A VBR tag met at its offset skips its marker frame. -/
theorem meetVbrTag_eq {tag : Bytes4} {s : State} (h : vbrTagMet tag s = true) :
    meetVbrTag tag s = runAlone (skipMarker (headerOf s.buf) s) s := by
  have := (vbrTagMet_iff.1 h).2.1
  rw [meetVbrTag, if_pos h, frontHeader_of_le (by omega), andThen_next]

/-- A VBR tag that does not stand at its offset is the step of the phase. -/
theorem meetVbrTag_of_unmet {tag : Bytes4} {s : State} (h : vbrTagMet tag s = false) :
    meetVbrTag tag s = runPhaseStep s := if_neg (by simp [h])

end Sys2Proof.Machine
end

