-- ==== Sys2Proof/Tests/Slice0.lean ====
section
/-! SUPPORT. The model's own tests. Words are written out from the encodings of 30_encoding.md; expected results
are the vectors V-A to V-G and the programs P1 to P7 of 95_test_vectors.md, named at each test, or hand
calculation from the cited rule. After them, for every obligation with hypotheses, a witness that meets
them, each clause at a boundary value of its range. -/

namespace Sys2Proof.Tests

open Sys2Proof Sys2Proof.Machine

/-! ## Helpers -/

/-- The reset state with another phase and buffer. -/
def inPhase (p : Phase) (buf : List Byte) : State := { State.reset with phase := p, buf := buf }

/-- Whether a result is a next state with a property. -/
def after (r : Res State) (q : State → Bool) : Bool :=
  match r with
  | .next t => q t
  | .fault _ => false
  | .refused _ => false

/-- The result is this refusal. -/
def refusedFor (r : Res State) (why : Refusal) : Bool :=
  match r with
  | .next _ => false
  | .fault _ => false
  | .refused x => decide (x = why)

/-- The state as 95_test_vectors.md writes it, without `first_chmode`. -/
def shown (p : Phase) (len count : Nat) (o : ScanResult) (stop : Bool) (pos : Nat) (t : State) : Bool :=
  decide (t.phase = p ∧ t.buf.length = len ∧ t.count.toNat = count ∧ t.outcome = o ∧
    t.stop = stop ∧ t.pos = pos)

/-- `n` zero bytes. -/
def zeros (n : Nat) : List Byte := List.replicate n 0

/-- FRAME(HS, 00): 0xFFFB1400, 96 bytes. -/
def frameHS : List Byte := [0xFF, 0xFB, 0x14, 0x00] ++ zeros 92

/-- The mono marker frame of stream E3: header HM = 0xFFFB14C0, "Xing" at offset 21, 96 bytes. -/
def markerHM : List Byte :=
  [0xFF, 0xFB, 0x14, 0xC0] ++ zeros 17 ++ [0x58, 0x69, 0x6E, 0x67] ++ zeros 71

/-- ID3(5, 00), 15 bytes. -/
def tag5 : List Byte := [0x49, 0x44, 0x33, 4, 0, 0, 0, 0, 0, 5] ++ zeros 5

/-! ## WellFormed: an ill-formed term for each check -/

theorem test_wf_valid_wants_sync : (Instr.hdrValid 0x7FFB9000).wellFormed = false := by decide
theorem test_wf_valid_wants_version : (Instr.hdrValid 0xFFF39000).wellFormed = false := by decide
theorem test_wf_valid_wants_layer : (Instr.hdrValid 0xFFFD9000).wellFormed = false := by decide
theorem test_wf_valid_refuses_sr3 : (Instr.hdrValid 0xFFFB9C00).wellFormed = false := by decide
theorem test_wf_valid_refuses_br0 : (Instr.hdrValid 0xFFFB0000).wellFormed = false := by decide
theorem test_wf_valid_refuses_br15 : (Instr.hdrValid 0xFFFBF000).wellFormed = false := by decide
theorem test_wf_first_refuses_valid : (Instr.hdrInvalidFirst 0xFFFB9000).wellFormed = false := by decide
theorem test_wf_later_refuses_valid : (Instr.hdrInvalidLater 0xFFFB9000).wellFormed = false := by decide
theorem test_wf_br0_wants_index0 : (Instr.hdrLenReservedBr0 0xFFFB9000).wellFormed = false := by decide
theorem test_wf_br0_refuses_sr3 : (Instr.hdrLenReservedBr0 0xFFFB0C00).wellFormed = false := by decide
theorem test_wf_br15_wants_index15 : (Instr.hdrLenReservedBr15 0xFFFB0000).wellFormed = false := by decide
theorem test_wf_br15_wants_valid : (Instr.hdrLenReservedBr15 0xFFF3F000).wellFormed = false := by decide
theorem test_wf_sr3_wants_index3 : (Instr.hdrLenReservedSr3 0xFFFB9000).wellFormed = false := by decide
theorem test_wf_terminate_done_wants_count : (Instr.terminate .done .formatError).wellFormed = false := by
  decide
theorem test_wf_terminate_failed_refuses_count : (Instr.terminate .failed .count).wellFormed = false := by
  decide

/-! ## Decoding: words written out from the encodings -/

/-- R81, R82: sync, version, layer, bit 16, bitrateIndex 9, sampleRateIndex 0, padding 0, rest 0. -/
theorem test_decode_hdr_valid :
    decodeTableWord 32 0b11111111111_11_01_1_1001_00_0_0_00_000000 = some (.hdrValid 0xFFFB9000) := by
  decide
theorem test_decode_hdr_invalid_first :
    decodeTableWord 32 0b11111111111_10_01_1_1001_00_0_0_00_000000 =
      some (.hdrInvalidFirst 0xFFF39000) := by decide
theorem test_decode_hdr_invalid_later :
    decode (.unit .hdr32Later [0x54, 0x41, 0x47, 0x00]) = .instr (.hdrInvalidLater 0x54414700) := by decide
theorem test_decode_br0 :
    decodeTableWord 32 0b11111111111_11_01_1_0000_00_0_0_00_000000 =
      some (.hdrLenReservedBr0 0xFFFB0000) := by decide
theorem test_decode_br15 :
    decodeTableWord 32 0b11111111111_11_01_1_1111_00_0_0_00_000000 =
      some (.hdrLenReservedBr15 0xFFFBF000) := by decide
theorem test_decode_sr3 :
    decodeTableWord 32 0b11111111111_11_01_1_1001_11_0_0_00_000000 =
      some (.hdrLenReservedSr3 0xFFFB9C00) := by decide
/-- R84: "ID3", version 04 00, flags 00, size bytes 80 80 80 85 with bit 7 set. -/
theorem test_decode_id3 :
    decodeTableWord 80 0x49443304000080808085 =
      some (.id3Magic 0x0400 0 ⟨0x80, 0x80, 0x80, 0x85⟩) := by decide
/-- R85: "ID2" is no tag. -/
theorem test_decode_id2_is_no_tag :
    decode (.unit .id3hdr80 ([0x49, 0x44, 0x32] ++ zeros 7)) = .rejected .noMagic := by decide
/-- R86: the four ASCII codes. -/
theorem test_decode_xing : decode (.unit .tag32 [0x58, 0x69, 0x6E, 0x67]) = .instr .vbrXing := by decide
theorem test_decode_info : decode (.unit .tag32 [0x49, 0x6E, 0x66, 0x6F]) = .instr .vbrInfo := by decide
/-- V-F24: lower-case "xing" is no tag. -/
theorem test_decode_lower_case_is_no_tag :
    decode (.unit .tag32 [0x78, 0x69, 0x6E, 0x67]) = .rejected .noTag := by decide
theorem test_decode_syncsafe :
    decode (.block .syncsafe 0x00000F76 0) = .instr (.syncsafe ⟨0, 0, 0x0F, 0x76⟩) := by decide
theorem test_decode_hdrdec : decode (.block .hdrdec 0xFFFB9000 0) = .instr (.hdrdec 0xFFFB9000) := by decide
theorem test_decode_hdrvalid :
    decode (.block .hdrvalid 0xFFFB9000 0) = .instr (.hdrIsValid 0xFFFB9000) := by decide
/-- bitrateIndex in bits 15 to 12, sampleRateIndex in 11 to 10, padding in bit 9. -/
theorem test_decode_framelen :
    decode (.block .framelen 0b1110_10_1_000000000 0) = .instr (.framelen 14 2 1) := by decide
/-- channelMode in bits 7 to 6. -/
theorem test_decode_vbroff : decode (.block .vbroff 0b10_000000 0) = .instr (.vbroff 2) := by decide
theorem test_decode_tagskip :
    decode (.block .tagskip 0x00000201 0) = .instr (.tagskip ⟨0, 0, 2, 1⟩) := by decide
theorem test_decode_tables :
    decode (.block .bitrate 14 0) = .instr (.bitrate 14) ∧
    decode (.block .samplerate 2 0) = .instr (.samplerate 2) := by decide
theorem test_decode_fsm :
    decode (.block .advance 0 0) = .instr .advance ∧ decode (.block .stepId3 0 0) = .instr .stepId3 ∧
    decode (.block .stepFirst 0 0) = .instr .stepFirst ∧
    decode (.block .stepVbr 0 0) = .instr .stepVbr ∧
    decode (.block .stepScan 0 0) = .instr .stepScan := by decide
/-- R21, R25: Done = 4, Failed = 5; Count = 1, FormatError = 2, IoFailure = 3 (layout: log 13). -/
theorem test_decode_terminate :
    decode (.block .terminate 0x104 0) = .instr (.terminate .done .count) ∧
    decode (.block .terminate 0x305 7) = .instr (.terminate .failed (.ioFailure 7)) ∧
    decode (.block .terminate 0x105 0) = .rejected .mismatchedEnd ∧
    decode (.block .terminate 0x103 0) = .rejected .noSuchEnd := by decide
/-- R190: the four kinds of beat, and `rst` over any beat. -/
theorem test_decode_port :
    decode (.cycle ⟨false, true, 0, 0xFF, 9⟩) = .instr (.push [0xFF]) ∧
    decode (.cycle ⟨false, true, 1, 0xFF, 9⟩) = .instr .eos ∧
    decode (.cycle ⟨false, true, 2, 0xFF, 9⟩) = .instr (.srcerr 9) ∧
    decode (.cycle ⟨false, true, 3, 0xFF, 9⟩) = .instr .beatReserved ∧
    decode (.cycle ⟨true, true, 0, 0xFF, 9⟩) = .instr .reset ∧
    decode (.cycle ⟨false, false, 1, 0xFF, 9⟩) = .rejected .idleCycle := by decide
theorem test_decode_chunk : decode (.chunk [1, 2]) = .instr (.push [1, 2]) := by decide
theorem test_decode_wrong_length :
    decode (.unit .hdr32First [0xFF, 0xFB, 0x90]) = .rejected .wrongLength ∧
    decodeTableWord 16 0xFFFB = none := by decide

/-! ## Functions and tables -/

/-- V-A5, V-A9. -/
theorem test_syncsafe :
    syncsafe ⟨0, 0, 0x0F, 0x76⟩ = 2038 ∧ syncsafe ⟨0xFF, 0xFF, 0xFF, 0xFF⟩ = 268435455 := by decide
/-- V-A6, V-A7: each group 7 bits. -/
theorem test_syncsafe_groups : syncsafe ⟨0, 1, 0, 0⟩ = 16384 ∧ syncsafe ⟨1, 0, 0, 0⟩ = 2097152 := by decide
/-- V-B17. -/
theorem test_hdrdec : hdrdec 0xFFFBEA00 = ⟨true, true, true, 14, 2, 1, 0⟩ := by decide
/-- V-B23, V-B21. -/
theorem test_hdrdec_invalid :
    hdrdec 0x54414700 = ⟨false, false, false, 4, 1, 1, 0⟩ ∧
    hdrdec 0xFFFFFFFF = ⟨true, true, false, 15, 3, 1, 3⟩ := by decide
/-- V-B4, V-B20, V-B24: what is ignored. -/
theorem test_hdrvalid :
    hdrvalid 0xFFFA9000 = true ∧ hdrvalid 0xFFFBFFFF = true ∧ hdrvalid 0xFFFB913F = true := by decide
/-- V-B5 to V-B12. -/
theorem test_hdrvalid_rejects :
    ([0xFFF39000, 0xFFE39000, 0xFFEB9000, 0xFFFD9000, 0xFFFF9000, 0xFFF99000, 0x7FFB9000,
      0xFFDB9000] : List Word).all (fun h => !hdrvalid h) = true := by decide
/-- V-C1, V-C2, V-C5, V-C7; V-C12's 288 is wrong. -/
theorem test_framelen :
    framelen 9 0 0 = .bytes 417 ∧ framelen 9 0 1 = .bytes 418 ∧ framelen 14 0 0 = .bytes 1044 ∧
    framelen 12 0 1 = .bytes 732 := by decide
/-- V-C8 to V-C11. -/
theorem test_framelen_invalid :
    framelen 0 0 0 = .invalid ∧ framelen 15 1 1 = .invalid ∧ framelen 9 3 0 = .invalid ∧
    framelen 0 3 1 = .invalid := by decide
/-- V-D1 to V-D4. -/
theorem test_vbroff : vbroff 0 = 36 ∧ vbroff 1 = 36 ∧ vbroff 2 = 36 ∧ vbroff 3 = 21 := by decide
/-- V-A1, V-A8. -/
theorem test_tagskip : tagskip ⟨0, 0, 0, 0⟩ = 10 ∧ tagskip ⟨0x7F, 0x7F, 0x7F, 0x7F⟩ = 268435465 := by
  decide
/-- V-S7. -/
theorem test_bitrate : bitrateAt 0 = 0 ∧ bitrateAt 8 = 112000 ∧ bitrateAt 14 = 320000 ∧ bitrateAt 15 = 0 := by
  decide
/-- V-S7. -/
theorem test_samplerate : sampleRateAt 0 = 44100 ∧ sampleRateAt 2 = 32000 ∧ sampleRateAt 3 = 0 := by decide
/-- R201: the message and the parameter. -/
theorem test_format_error_text :
    formatErrorMessage.length = 58 ∧ formatErrorParameter = "document" := by decide

/-! ## Steps -/

/-- V-E2, V-E3: 14 bytes of a tag of 15: wait. -/
theorem test_step_id3_waits :
    after (exec .stepId3 (inPhase .awaitingId3 (tag5.take 14)))
      (fun t => shown .awaitingId3 14 0 .noResult false 0 t && t.opResult == .stepped .wait) = true := by
  decide
/-- V-E4: the whole tag at once. -/
theorem test_step_id3_skips :
    after (exec .stepId3 (inPhase .awaitingId3 tag5))
      (shown .awaitingFirstFrameHeader 0 0 .noResult false 15) = true := by decide
/-- V-E6: not consumed, channel mode captured (here 3, from HM). -/
theorem test_step_first_accepts :
    after (exec .stepFirst (inPhase .awaitingFirstFrameHeader [0xFF, 0xFB, 0x14, 0xC0]))
      (fun t => shown .awaitingVbrDecision 4 0 .noResult false 0 t && t.firstChmode == 3) = true := by
  decide
/-- V-F4, P3. -/
theorem test_step_first_rejects :
    after (exec .stepFirst (inPhase .awaitingFirstFrameHeader ([0xFF, 0xF3, 0x14, 0x00] ++ zeros 6)))
      (shown .failed 0 0 .formatError true 0) = true := by decide
/-- V-E13: a mono marker of 96 bytes, 33 of them there: wait. -/
theorem test_step_vbr_waits :
    after (exec .stepVbr { inPhase .awaitingVbrDecision (markerHM.take 33) with firstChmode := 3 })
      (shown .awaitingVbrDecision 33 0 .noResult false 0) = true := by decide
/-- V-E15: the marker frame is consumed and not counted. -/
theorem test_step_vbr_skips :
    after (exec .stepVbr { inPhase .awaitingVbrDecision markerHM with firstChmode := 3 })
      (shown .scanningFrames 0 0 .noResult false 96) = true := by decide
/-- V-E11. -/
theorem test_step_scan_counts :
    after (exec .stepScan (inPhase .scanningFrames frameHS))
      (shown .scanningFrames 0 1 .noResult false 96) = true := by decide
/-- V-E21 after its first frame. -/
theorem test_step_scan_ends :
    after (exec .stepScan { inPhase .scanningFrames [0xFF, 0x00, 0x14, 0x00] with count := 1, pos := 96 })
      (shown .done 0 1 (.count 1) true 96) = true := by decide
/-- V-E8 and V-E9: ADVANCE goes through three phases, and decides at exactly off + 12 bytes. -/
theorem test_advance_threshold :
    after (exec .advance (inPhase .awaitingId3 (frameHS.take 47)))
      (shown .awaitingVbrDecision 47 0 .noResult false 0) = true ∧
    after (exec .advance (inPhase .awaitingId3 (frameHS.take 48)))
      (shown .scanningFrames 48 0 .noResult false 0) = true := by decide
/-- V-F7's end, by ADVANCE: a first header with bitrate index 0 is no FormatError. -/
theorem test_advance_reserved_first :
    after (exec .advance (inPhase .awaitingId3 ([0xFF, 0xFB, 0x04, 0x00] ++ zeros 44)))
      (shown .done 0 0 (.count 0) true 0) = true := by decide
/-- R205: for Count(n), n is the current count. -/
theorem test_terminate :
    after (exec (.terminate .done .count) { inPhase .scanningFrames [1, 2] with count := 5 })
      (shown .done 0 5 (.count 5) true 0) = true ∧
    refusedFor (exec (.terminate .done .count) (inPhase .failed [])) .alreadyEnded = true := by decide

/-! ## Units -/

theorem test_unit_valid :
    after (exec (.hdrValid 0xFFFB1400) (inPhase .scanningFrames frameHS))
      (shown .scanningFrames 0 1 .noResult false 96) = true := by
  decide
/-- R155: the front is no header, so whatever header is asked for the scan ends. -/
theorem test_unit_valid_unmet :
    after (exec (.hdrValid 0xFFFB1400) { inPhase .scanningFrames [0x54, 0x41, 0x47, 0x00] with count := 2 })
      (shown .done 0 2 (.count 2) true 0) = true := by decide
theorem test_unit_invalid_first :
    after (exec (.hdrInvalidFirst 0xFFF31400)
      (inPhase .awaitingFirstFrameHeader [0xFF, 0xF3, 0x14, 0x00]))
      (shown .failed 0 0 .formatError true 0) = true := by decide
theorem test_unit_invalid_later :
    after (exec (.hdrInvalidLater 0x54414700)
      { inPhase .scanningFrames [0x54, 0x41, 0x47, 0x00] with count := 2 })
      (shown .done 0 2 (.count 2) true 0) = true := by decide
/-- V-B13, C7: accepted as a first header. -/
theorem test_unit_br0 :
    after (exec (.hdrLenReservedBr0 0xFFFB0400)
      (inPhase .awaitingFirstFrameHeader [0xFF, 0xFB, 0x04, 0x00]))
      (shown .awaitingVbrDecision 4 0 .noResult false 0) = true := by decide
theorem test_unit_br15 :
    after (exec (.hdrLenReservedBr15 0xFFFBF000) (inPhase .scanningFrames [0xFF, 0xFB, 0xF0, 0x00]))
      (shown .done 0 0 (.count 0) true 0) = true := by decide
/-- V-F21's end. -/
theorem test_unit_sr3 :
    after (exec (.hdrLenReservedSr3 0xFFFB1C00)
      { inPhase .scanningFrames ([0xFF, 0xFB, 0x1C, 0x00] ++ zeros 200) with count := 1 })
      (shown .done 0 1 (.count 1) true 0) = true := by decide
/-- V-F9's tag: size bytes with bit 7 set. -/
theorem test_unit_id3 :
    after (exec (.id3Magic 0x0400 0 ⟨0x80, 0x80, 0x80, 0x85⟩)
      (inPhase .awaitingId3 ([0x49, 0x44, 0x33, 4, 0, 0, 0x80, 0x80, 0x80, 0x85] ++ zeros 5)))
      (shown .awaitingFirstFrameHeader 0 0 .noResult false 15) = true := by decide
/-- R93, V-F11: a second tag is judged as a header. -/
theorem test_unit_id3_is_no_second_tag :
    after (exec (.id3Magic 0x0400 0 ⟨0, 0, 0, 5⟩) { inPhase .awaitingFirstFrameHeader tag5 with pos := 15 })
      (shown .failed 0 0 .formatError true 15) = true := by decide
/-- R87, V-F16: no tag is looked for but at the marker offset of the first frame; R185: nor after the end. -/
theorem test_unit_info_unmet :
    after (exec .vbrInfo (inPhase .awaitingVbrDecision markerHM))
      (shown .scanningFrames 96 0 .noResult false 0) = true ∧
    after (exec .vbrInfo (inPhase .done [])) (fun t => t == inPhase .done []) = true := by decide
theorem test_unit_xing :
    after (exec .vbrXing { inPhase .awaitingVbrDecision markerHM with firstChmode := 3 })
      (shown .scanningFrames 0 0 .noResult false 96) = true := by decide
/-- V-F17: a tag in a frame of Invalid length consumes nothing (D11). -/
theorem test_unit_info_invalid_length :
    after (exec .vbrInfo (inPhase .awaitingVbrDecision
      ([0xFF, 0xFB, 0x04, 0x00] ++ zeros 32 ++ [0x49, 0x6E, 0x66, 0x6F] ++ zeros 56)))
      (shown .scanningFrames 96 0 .noResult false 0) = true := by decide

/-! ## Events -/

/-- V-G6: RESET abandons a scan. -/
theorem test_reset :
    after (exec .reset (inPhase .awaitingVbrDecision (frameHS.take 50)))
      (shown .awaitingId3 0 0 .noResult false 0) = true := by decide
/-- V-E21: one frame, and four bytes that are no header, in one chunk. -/
theorem test_push_whole_stream :
    after (exec (.push (frameHS ++ [0xFF, 0x00, 0x14, 0x00])) State.reset)
      (shown .done 0 1 (.count 1) true 96) = true := by decide
/-- V-F5: nine bytes are not judged. -/
theorem test_push_nine_bytes :
    after (exec (.push ([0xFF, 0xF3, 0x14, 0x00] ++ zeros 5)) State.reset)
      (shown .awaitingId3 9 0 .noResult false 0) = true := by decide
/-- P5: the partial frame is dropped. -/
theorem test_eos :
    after (exec .eos { inPhase .scanningFrames (frameHS.take 48) with count := 1, pos := 96 })
      (shown .done 0 1 (.count 1) true 96) = true := by decide
/-- V-G5: the count is held, the outcome is the failure. -/
theorem test_srcerr :
    after (exec (.srcerr 7) { inPhase .scanningFrames [] with count := 1, pos := 96 })
      (shown .failed 0 1 (.ioFailure 7) true 96) = true := by decide
/-- R190: ignored. -/
theorem test_beat_reserved :
    after (exec .beatReserved (inPhase .scanningFrames [1])) (fun t => t == inPhase .scanningFrames [1]) =
      true := by decide
/-- R51, R63: past BUF_CAP the run is refused. -/
theorem test_push_past_capacity :
    refusedFor (exec (.push [1, 2]) { inPhase .awaitingId3 [0] with params := ⟨some 2⟩ })
      .bufCapExceeded = true := by decide
/-- R23: the last count is not passed. -/
theorem test_count_overflow :
    refusedFor (exec .stepScan { inPhase .scanningFrames frameHS with count := 0xFFFFFFFF })
      .countOverflow = true := by decide
/-- P4's end state at the ports. -/
theorem test_outputs :
    (outputs { inPhase .failed [] with outcome := .ioFailure 0x2A, stop := true, count := 1 }) =
      ⟨true, 3, 1, 0x2A, true, true⟩ := by decide

/-! ## The step and the load of a word -/

/-- A beat in `inbox` is taken and run. -/
theorem test_step :
    after (step { inPhase .awaitingId3 [] with inbox := [.cycle (beatCycle 0 0xFF 0), .chunk [1]] })
      (fun t => shown .awaitingId3 1 0 .noResult false 0 t && t.inbox == [.chunk [1]]) = true := by decide
theorem test_step_undecodable :
    refusedFor (step { State.reset with inbox := [.unit .tag32 [0, 0, 0, 0]] }) (.undecodable .noTag) =
      true := by decide
/-- A header word placed and run as the first operation after reset (log 15). -/
theorem test_fetch_word :
    after (step (State.reset.withFetchWord 32 0xFFFB9000))
      (shown .awaitingVbrDecision 4 0 .noResult false 0) = true ∧
    after (step (State.reset.withFetchWord 32 0x58696E67)) (fun t => t.phase == .scanningFrames) = true ∧
    after (step (State.reset.withFetchWord 80 0x49443304000000000000))
      (shown .awaitingFirstFrameHeader 0 0 .noResult false 10) = true ∧
    after (step (State.reset.withFetchWord 8 1)) (shown .done 0 0 (.count 0) true 0) = true := by decide

/-! ## Witnesses: for each obligation with hypotheses, states and operands that meet them -/

/-- A marker frame of stream E3 in its phase. -/
def atVbr (buf : List Byte) : State := { inPhase .awaitingVbrDecision buf with firstChmode := 3 }

/-- A scan in progress, one frame counted, two bytes of the next header there, two offers waiting. -/
def running : State :=
  { State.reset with
    phase := .scanningFrames, buf := [0xFF, 0xFB], count := 1, pos := 96,
    inbox := [.cycle (beatCycle 0 0x14 0), .cycle (beatCycle 1 0 0)] }

/-- A scan waiting for the VBR decision. -/
def deciding : State := { atVbr [0xFF, 0xFB, 0x14, 0xC0] with inbox := [.chunk (zeros 29)] }

/-- A scan that ended with a count. -/
def ended : State := { State.reset with phase := .done, outcome := .count 2, count := 2, stop := true, pos := 207 }

/-- A scan that ended with a failure of the source. -/
def failed : State := { State.reset with phase := .failed, outcome := .ioFailure 7, stop := true, count := 1 }

theorem running_inv : BlockInv running := by
  constructor <;> simp [running, State.reset, Phase.isTerminal, Phase.code, Memory.wf, fitsCap,
    Config.defaultParams, Code.isHostInput, Settled, Waiting, threshold]

theorem deciding_inv : BlockInv deciding := by
  constructor <;> simp [deciding, atVbr, inPhase, State.reset, Phase.isTerminal, Phase.code, Memory.wf,
    fitsCap, Config.defaultParams, Code.isHostInput, Settled, Waiting, threshold]
  decide

theorem ended_inv : BlockInv ended := by
  constructor <;> simp [ended, State.reset, Phase.isTerminal, Phase.code, Memory.wf, fitsCap,
    Config.defaultParams, Settled]

theorem failed_inv : BlockInv failed := by
  constructor <;> simp [failed, State.reset, Phase.isTerminal, Phase.code, Memory.wf, fitsCap,
    Config.defaultParams, Settled]

/-- One operation of every check of WellFormed. -/
theorem witness_DecodeOfEncodeIsTheInstruction :
    ([.hdrValid 0xFFFB9000, .hdrInvalidFirst 0, .hdrInvalidLater 0xFFF39000, .hdrLenReservedBr0 0xFFFB0000,
      .hdrLenReservedBr15 0xFFFBF000, .hdrLenReservedSr3 0xFFFBFFFF, .id3Magic 0xFFFF 0xFF ⟨255, 0, 0, 5⟩,
      .terminate .done .count, .terminate .failed .formatError, .terminate .failed (.ioFailure 7),
      .framelen 15 3 1, .push []] : List Instr).all Instr.wellFormed = true := by decide

/-- The shortest and the longest frame. -/
theorem witness_FramelenValuesAndBounds :
    framelen 1 1 0 = .bytes 96 ∧ framelen 14 2 1 = .bytes 1441 := by decide

theorem witness_FunctionsReadAndWriteNoState :
    ∃ h, Instr.hdrdec 0xFFFB9000 = .hdrdec h := ⟨_, rfl⟩

/-- 9 bytes; 10 bytes without the magic; 14 and 15 bytes of a tag of 15. -/
theorem witness_StepId3Result :
    (inPhase .awaitingId3 (zeros 9)).buf.length < 10 ∧
    (10 ≤ (zeros 10).length ∧ (zeros 10).take 3 ≠ [0x49, 0x44, 0x33]) ∧
    (tag5.take 3 = [0x49, 0x44, 0x33] ∧ 10 + (syncsafe (bytesAt tag5 6)).toNat = 15 ∧
      (tag5.take 14).length = 14 ∧ tag5.length = 15) := by decide

/-- 3 bytes; 4 bytes of an invalid and of a valid header. -/
theorem witness_StepFirstResult :
    (inPhase .awaitingFirstFrameHeader (zeros 3)).buf.length < 4 ∧
    hdrvalid (headerOf [0xFF, 0xF3, 0x14, 0x00]) = false ∧
    hdrvalid (headerOf [0xFF, 0xFB, 0x14, 0x00]) = true := by decide

/-- Mono, off = 21: 32 bytes; 33 bytes without a tag; a tag in a frame of Invalid length; 95 and 96 bytes of a
marker frame of 96. -/
theorem witness_StepVbrResult :
    (atVbr (markerHM.take 32)).buf.length < 4 + 17 + 12 ∧
    bytesAt (zeros 33) 21 = ⟨0, 0, 0, 0⟩ ∧
    (bytesAt markerHM 21 = ⟨0x58, 0x69, 0x6E, 0x67⟩ ∧ framelenOf (headerOf markerHM) = .bytes 96 ∧
      markerHM.length = 96) ∧
    framelenOf (headerOf [0xFF, 0xFB, 0x04, 0xC0]) = .invalid := by decide

/-- 3 bytes; an invalid header; a reserved index; 95 and 96 bytes of a frame of 96; the last two counts. -/
theorem witness_StepScanResult :
    (inPhase .scanningFrames (zeros 3)).buf.length < 4 ∧
    hdrvalid (headerOf [0xFF, 0x00, 0x14, 0x00]) = false ∧
    (hdrvalid (headerOf [0xFF, 0xFB, 0x1C, 0x00]) = true ∧
      framelenOf (headerOf [0xFF, 0xFB, 0x1C, 0x00]) = .invalid) ∧
    (hdrvalid (headerOf frameHS) = true ∧ framelenOf (headerOf frameHS) = .bytes 96 ∧
      frameHS.length = 96) ∧
    (0xFFFFFFFE#32).toNat < 2 ^ 32 - 1 ∧ (0xFFFFFFFF#32).toNat = 2 ^ 32 - 1 := by decide

theorem witness_TerminateResult : running.phase.isTerminal = false := rfl

/-- A state outside all four phases. -/
theorem witness_OperationsOutOfPlaceRefused :
    ended.phase ≠ .awaitingId3 ∧ ended.phase ≠ .awaitingFirstFrameHeader ∧
    ended.phase ≠ .awaitingVbrDecision ∧ ended.phase ≠ .scanningFrames ∧
    ended.phase.isTerminal = true := by decide

/-- A terminal phase, a step that moves, one that waits and one that ends. -/
theorem witness_AdvanceGoesRoundOnMoved :
    ended.phase.isTerminal = true ∧ (inPhase .awaitingId3 []).phase = .awaitingId3 ∧
    (inPhase .awaitingFirstFrameHeader []).phase = .awaitingFirstFrameHeader ∧
    (inPhase .awaitingVbrDecision []).phase = .awaitingVbrDecision ∧
    (inPhase .scanningFrames []).phase = .scanningFrames ∧
    (∃ t, stepOfPhase (inPhase .awaitingId3 (zeros 10)) = .next (.moved t)) ∧
    stepOfPhase (inPhase .awaitingId3 (zeros 9)) = .next .wait ∧
    (∃ t, stepOfPhase (inPhase .awaitingFirstFrameHeader (zeros 4)) = .next (.ended t)) :=
  ⟨rfl, rfl, rfl, rfl, rfl, ⟨_, rfl⟩, rfl, ⟨_, rfl⟩⟩

/-- The bound itself. -/
theorem witness_AdvanceEndsWithinBound : 3 + running.buf.length / 96 + 1 ≤ 4 := by decide

/-- A whole frame at count 2^32 - 2: the last one that is counted. -/
theorem witness_AdvanceCompletesSettled :
    ({ inPhase .scanningFrames frameHS with count := 0xFFFFFFFE } : State).count.toNat + frameHS.length / 96 <
      2 ^ 32 := by decide

/-- A chunk that fills the capacity exactly. -/
theorem witness_PushAppendsThenAdvances :
    ended.phase.isTerminal = true ∧
    ∃ s : State, s.params.bufCap = some 3 ∧ s.phase.isTerminal = false ∧
      fitsCap s.params (s.buf.length + [0x14#8].length) = true :=
  ⟨rfl, { running with params := ⟨some 3⟩ }, rfl, rfl, by decide⟩

theorem witness_PushCompletesSettled :
    running.phase.isTerminal = false ∧
    fitsCap running.params (running.buf.length + [0x14#8].length) = true ∧
    running.count.toNat + (running.buf.length + [0x14#8].length) / 96 < 2 ^ 32 := by decide

/-- A PUSH that scans on, one that ends the scan, an ADVANCE, and a PUSH that captures a channel mode. -/
theorem witness_PushAndAdvanceFrame :
    (∃ t, exec (.push [0x14]) running = .next t ∧ t.phase.isTerminal = false) ∧
    (∃ t, exec (.push [0x00, 0x00]) running = .next t ∧ t.phase.isTerminal = true) ∧
    (∃ t, exec .advance running = .next t) ∧
    (∃ t, exec (.push [0xC0]) (inPhase .awaitingFirstFrameHeader [0xFF, 0xFB, 0x14]) = .next t ∧
      t.firstChmode ≠ (inPhase .awaitingFirstFrameHeader [0xFF, 0xFB, 0x14]).firstChmode) :=
  ⟨⟨_, rfl, rfl⟩, ⟨_, rfl, rfl⟩, ⟨_, rfl⟩, ⟨_, rfl, by decide⟩⟩

theorem witness_EosResult : running.phase.isTerminal = false ∧ ended.phase.isTerminal = true := ⟨rfl, rfl⟩

theorem witness_SrcerrResult : deciding.phase.isTerminal = false ∧ failed.phase.isTerminal = true :=
  ⟨rfl, rfl⟩

theorem witness_LateEventsChangeNothing : ended.phase.isTerminal = true ∧ failed.phase.isTerminal = true :=
  ⟨rfl, rfl⟩

/-- A waiting and a terminal state. -/
theorem witness_EmptyChunkChangesNothing :
    Settled running ∧ Memory.wf running.params running.buf = true ∧ Settled ended ∧
    Memory.wf ended.params ended.buf = true :=
  ⟨running_inv.settled, rfl, ended_inv.settled, rfl⟩

/-- One header for each clause. -/
theorem witness_FirstHeaderUnits :
    (inPhase .awaitingFirstFrameHeader [0xFF, 0xFB, 0x90, 0x00]).buf.take 4 =
      (wordBytes 0xFFFB9000).toList ∧
    hdrvalid 0xFFFB9000 = true ∧
    (hdrvalid 0xFFFB0000 = true ∧ (hdrdec 0xFFFB0000).bitrateIndex = 0) ∧
    (hdrvalid 0xFFFBF000 = true ∧ (hdrdec 0xFFFBF000).bitrateIndex = 15) ∧
    (hdrvalid 0xFFFB9C00 = true ∧ (hdrdec 0xFFFB9C00).sampleRateIndex = 3) ∧
    hdrvalid 0xFFF39000 = false := by decide

/-- A whole frame of exactly its length, at the last count that is counted. -/
theorem witness_LaterHeaderUnits :
    (inPhase .scanningFrames frameHS).buf.take 4 = (wordBytes 0xFFFB1400).toList ∧
    (hdrvalid 0xFFFB1400 = true ∧ framelenOf 0xFFFB1400 = .bytes 96 ∧ 96 ≤ frameHS.length) ∧
    (0xFFFFFFFE#32).toNat < 2 ^ 32 - 1 ∧ hdrvalid 0x54414700 = false ∧
    (hdrdec 0xFFFB0000).bitrateIndex = 0 ∧ (hdrdec 0xFFFBF000).bitrateIndex = 15 ∧
    (hdrdec 0xFFFB1C00).sampleRateIndex = 3 := by decide

/-- A tag of 15 bytes, 14 and 15 of them there. -/
theorem witness_Id3TagUnit :
    (inPhase .awaitingId3 tag5).buf.take 10 = [0x49, 0x44, 0x33, 4, 0, 0, 0, 0, 0, 5] ∧
    (tag5.take 14).take 10 = tag5.take 10 ∧ (tag5.take 14).length < 15 ∧ 15 ≤ tag5.length := by decide

/-- The marker frame whole, one byte short of whole, and with an Invalid length. -/
theorem witness_VbrTagUnits :
    vbroff (atVbr markerHM).firstChmode + 12 = 33 ∧ 33 ≤ markerHM.length ∧
    bytesAt markerHM 21 = ⟨0x58, 0x69, 0x6E, 0x67⟩ ∧ framelenOf (headerOf markerHM) = .bytes 96 ∧
    (markerHM.take 95).length < 96 ∧ bytesAt (markerHM.take 95) 21 = ⟨0x58, 0x69, 0x6E, 0x67⟩ ∧
    framelenOf (headerOf ([0xFF, 0xFB, 0x04, 0xC0] ++ markerHM.drop 4)) = .invalid := by decide

/-- A unit, and a state of each phase. -/
theorem witness_StreamUnitRunsAsTheStep :
    (∃ v f z, Instr.id3Magic 0x0400 0 ⟨0, 0, 0, 5⟩ = .id3Magic v f z) ∧
    (inPhase .awaitingId3 tag5).phase = .awaitingId3 ∧
    (inPhase .awaitingFirstFrameHeader frameHS).phase = .awaitingFirstFrameHeader ∧
    (atVbr markerHM).phase = .awaitingVbrDecision ∧ running.phase = .scanningFrames ∧
    ended.phase.isTerminal = true :=
  ⟨⟨_, _, _, rfl⟩, rfl, rfl, rfl, rfl, rfl⟩

/-- Nothing offered, a beat offered, and a unit that is no tag. -/
theorem witness_StepRunsTheDecodedOperation :
    State.reset.inbox = [] ∧
    (∃ c rest i, running.inbox = c :: rest ∧ decode c = .instr i) ∧
    (decode (.unit .tag32 [0, 0, 0, 0]) = .rejected .noTag ∧ Reject.noTag ≠ .idleCycle) :=
  ⟨rfl, ⟨_, _, _, rfl, rfl⟩, by decide⟩

/-- Every cycle can be the next one offered. -/
theorem witness_PortCycleIsItsEvent (p : PortCycle) :
    ∃ (s : State) (rest : List Code), s.inbox = .cycle p :: rest :=
  ⟨{ running with inbox := [.cycle p] }, [], rfl⟩

/-- A chunk one byte past the capacity; and a frame at the last count. -/
theorem witness_EventsRefusedOnlyForCapacityOrCount :
    (({ running with params := ⟨some 3⟩ } : State).params.bufCap = some 3 ∧
      running.phase.isTerminal = false ∧ 3 < running.buf.length + [0x14#8, 0x00#8].length) ∧
    (Instr.push frameHS).isEvent = true ∧
    refusedFor (exec (.push frameHS) { inPhase .scanningFrames [] with count := 0xFFFFFFFF })
      .countOverflow = true := by decide

/-- Steps from a state that scans, one that waits for the decision and one that has ended. -/
theorem witness_StepKeepsInvariant :
    (BlockInv running ∧ ∃ t, step running = .next t) ∧ (BlockInv deciding ∧ ∃ t, step deciding = .next t) ∧
    (BlockInv ended ∧ ∃ t, step ended = .next t) ∧ (BlockInv failed ∧ ∃ t, step failed = .next t) :=
  ⟨⟨running_inv, _, rfl⟩, ⟨deciding_inv, _, rfl⟩, ⟨ended_inv, _, rfl⟩, ⟨failed_inv, _, rfl⟩⟩

theorem witness_PhaseNeverGoesBackAndEndsHold :
    (Instr.eos ≠ .reset ∧ ∃ t, exec .eos running = .next t) ∧
    (ended.phase.isTerminal = true ∧ ∃ t, exec (.vbroff 3) ended = .next t) :=
  ⟨⟨by decide, _, rfl⟩, rfl, _, rfl⟩

theorem witness_StopRisesWithTheOutcome :
    (Instr.eos.isEvent = true ∧ BlockInv running ∧ running.stop = false ∧ ∃ t, exec .eos running = .next t) ∧
    (BlockInv ended ∧ ended.stop = true ∧ ∃ t, exec .eos ended = .next t) :=
  ⟨⟨rfl, running_inv, rfl, _, rfl⟩, ended_inv, rfl, _, rfl⟩

theorem witness_CountedFramesAreConsumed :
    ∃ t, exec .stepScan (inPhase .scanningFrames frameHS) = .next t ∧ t.count = 1 := ⟨_, rfl, by decide⟩

theorem witness_FormatErrorOnlyFromTheFirstHeader :
    (Instr.push (zeros 10)).isEvent = true ∧ State.reset.outcome ≠ .formatError ∧
    ∃ t, exec (.push (zeros 10)) State.reset = .next t ∧ t.outcome = .formatError :=
  ⟨rfl, by decide, _, rfl, rfl⟩

theorem witness_BufferIsTheUnconsumedSuffix :
    SuffixOf (frameHS ++ [0xFF, 0xFB]) running ∧
    ∃ t, exec (.push [0x14]) running = .next t ∧ t.phase.isTerminal = false :=
  ⟨⟨by decide, by decide⟩, _, rfl, rfl⟩

theorem witness_BufferStaysBelowThreshold :
    BlockInv deciding ∧ deciding.phase.isTerminal = false ∧
    ∃ t, exec (.push (zeros 28)) deciding = .next t ∧ t.phase.isTerminal = false :=
  ⟨deciding_inv, rfl, _, rfl, rfl⟩

theorem witness_OutputsShowTheOutcomeOnlyAtTheEnd :
    (BlockInv running ∧ running.phase.isTerminal = false) ∧ (BlockInv ended ∧ ended.phase = .done) ∧
    (BlockInv failed ∧ failed.phase = .failed) :=
  ⟨⟨running_inv, rfl⟩, ⟨ended_inv, rfl⟩, failed_inv, rfl⟩

/-- Two buffers that differ only past the header. -/
theorem witness_StepsReadOnlyTheListedOffsets :
    ([0xFF, 0xFB, 0x14, 0, 1] : List Byte).length = [0xFF#8, 0xFB, 0x14, 0, 2].length ∧
    (∀ k ∈ readOffsets (inPhase .scanningFrames [0xFF, 0xFB, 0x14, 0, 2]),
      byteAt [0xFF, 0xFB, 0x14, 0, 1] k = byteAt [0xFF, 0xFB, 0x14, 0, 2] k) ∧
    ∃ t, exec .stepScan (inPhase .scanningFrames [0xFF, 0xFB, 0x14, 0, 2]) = .next t :=
  ⟨by decide, by decide, _, rfl⟩

theorem witness_ChannelModeReadOnlyInTheVbrPhase : running.phase ≠ .awaitingVbrDecision := by decide

theorem witness_ModelFieldsDoNotReachTheBlock :
    Instr.eos ≠ .reset ∧ blockState running = blockState { running with opResult := .offset 21, freeCtr := 9 } :=
  ⟨by decide, rfl⟩

/-- One stream in two chunks and in three. -/
theorem witness_ChunkBoundariesDoNotMatter :
    State.reset.params.bufCap = none ∧ Settled running ∧
    ([[1, 2], [3]] : List (List Byte)).flatten = [[1], [], [2, 3]].flatten :=
  ⟨rfl, running_inv.settled, rfl⟩

theorem witness_ChunkAsBeats : running.params.bufCap = none ∧ Settled running := ⟨rfl, running_inv.settled⟩

theorem witness_RunComputesTheStreamFunction :
    running.params.bufCap = none ∧ ([tag5, frameHS] : List (List Byte)).flatten.length < 96 * 2 ^ 32 := by
  decide

theorem witness_EndedRunHasItsOutcome :
    ∃ t, runAll (.reset :: [[0xFF#8, 0xFB], [0x14#8]].map .push) running = .next t := ⟨_, rfl⟩

/-- One frame of HS, delivered in two chunks. -/
theorem witness_ConstantBitrateStreamCounts :
    hdrvalid 0xFFFB1400 = true ∧ framelenOf 0xFFFB1400 = .bytes 96 ∧
    (∀ f ∈ [frameHS], f.length = 96 ∧ f.take 4 = (wordBytes 0xFFFB1400).toList) ∧
    vbrTagAt (vbroff (hdrChannelMode 0xFFFB1400)) [frameHS].flatten = false ∧
    [frameHS.take 50, frameHS.drop 50].flatten = [frameHS].flatten := by decide

/-- A tag of size 5 before one frame of HS. -/
theorem witness_TagMakesNoDifference :
    (zeros 5).length = (syncsafe ⟨0, 0, 0, 5⟩).toNat ∧ startsWithId3 frameHS = false ∧
    10 ≤ frameHS.length ∧ frameHS.length < 96 * 2 ^ 32 ∧
    [tag5, frameHS].flatten = id3HeaderBytes 0x0400 0 ⟨0, 0, 0, 5⟩ ++ zeros 5 ++ frameHS ∧
    [frameHS].flatten = frameHS := by decide

/-- The marker frame of E3 alone, k = 0; with one more frame the same conditions hold of `frameHS`. -/
theorem witness_MarkerFrameIsNotCounted :
    IsWholeFrame markerHM ∧ vbrTagAt (vbroff (hdrChannelMode (headerOf markerHM))) markerHM = true ∧
    (∀ f ∈ [frameHS], IsWholeFrame f) ∧
    [markerHM, frameHS].flatten = markerHM ++ [frameHS].flatten := by
  refine ⟨⟨by decide, by decide, by decide⟩, by decide, ?_, by simp⟩
  intro f hf
  rw [List.mem_singleton.1 hf]
  exact ⟨by decide, by decide, by decide⟩

end Sys2Proof.Tests
end

section
/-! PROOF. One step of the machine (R12, R60): what it does with the offer at the head of `inbox`. -/

namespace Sys2Proof.Machine

theorem fetch_nil {s : State} (h : s.inbox = []) : fetch s = none := by
  simp [fetch, h]

theorem fetch_cons {s : State} {c : Code} {rest : List Code} (h : s.inbox = c :: rest) :
    fetch s = some (c, { s with inbox := rest, freeCtr := s.freeCtr + 1 }) := by
  simp [fetch, h]

/-- With nothing offered the block holds its state (R215). -/
theorem step_of_nothing_offered {s : State} (h : s.inbox = []) : step s = .next s := by
  simp [step, fetch_nil h]

/-- An offer that is an operation is taken and run whole (R12, R60). -/
theorem step_of_decoded {s : State} {c : Code} {rest : List Code} {i : Instr}
    (h : s.inbox = c :: rest) (hd : decode c = .instr i) :
    step s = exec i { s with inbox := rest, freeCtr := s.freeCtr + 1 } := by
  simp [step, fetch_cons h, hd]

/-- An offer that is no operation, and no idle cycle of the port either, is refused by name (log 13). -/
theorem step_of_rejected {s : State} {c : Code} {rest : List Code} {r : Reject}
    (h : s.inbox = c :: rest) (hd : decode c = .rejected r) (hr : r ≠ .idleCycle) :
    step s = .refused (.undecodable r) := by
  simp only [step, fetch_cons h, hd]

/-- Settles O37: the three answers of `fetch` and `decode`, one by one. -/
theorem stepRunsTheDecodedOperation : Obligations.StepRunsTheDecodedOperation := fun _ =>
  ⟨step_of_nothing_offered, fun _ _ _ => step_of_decoded, fun _ _ _ => step_of_rejected⟩

end Sys2Proof.Machine
end

section
/-! PROOF. More bytes behind the buffer (R51) leave every step that has already been decided as it was: the
bytes a step reads stand at the front (R59). -/

namespace Sys2Proof.Machine

/-! ## Bytes at the front of a longer buffer -/

theorem byteAt_append {buf c : List Byte} {k : Nat} (h : k < buf.length) :
    byteAt (buf ++ c) k = byteAt buf k :=
  List.getD_append _ _ _ _ h

theorem bytesAt_append {buf c : List Byte} {off : Nat} (h : off + 4 ≤ buf.length) :
    bytesAt (buf ++ c) off = bytesAt buf off := by
  simp only [bytesAt, Bytes4.mk.injEq]
  exact ⟨byteAt_append (by omega), byteAt_append (by omega), byteAt_append (by omega),
    byteAt_append (by omega)⟩

theorem headerOf_append {buf c : List Byte} (h : 4 ≤ buf.length) :
    headerOf (buf ++ c) = headerOf buf := by
  rw [headerOf, bytesAt_append (by omega), headerOf]

theorem startsWithId3_append {buf c : List Byte} (h : 3 ≤ buf.length) :
    startsWithId3 (buf ++ c) = startsWithId3 buf := by
  rw [startsWithId3, List.take_append_of_le_length h, startsWithId3]

theorem vbrTagAt_append {buf c : List Byte} {off : Nat} (h : off + 4 ≤ buf.length) :
    vbrTagAt off (buf ++ c) = vbrTagAt off buf := by
  rw [vbrTagAt, bytesAt_append h, vbrTagAt]

/-! ## The state with more bytes -/

/-- The state with the bytes of `c` behind its buffer: what Append does where the capacity allows it (R51). -/
def feed (c : List Byte) (s : State) : State := { s with buf := s.buf ++ c }

@[simp] theorem feed_buf (c : List Byte) (s : State) : (feed c s).buf = s.buf ++ c := rfl
@[simp] theorem feed_phase (c : List Byte) (s : State) : (feed c s).phase = s.phase := rfl
@[simp] theorem feed_count (c : List Byte) (s : State) : (feed c s).count = s.count := rfl
@[simp] theorem feed_firstChmode (c : List Byte) (s : State) :
    (feed c s).firstChmode = s.firstChmode := rfl
@[simp] theorem feed_params (c : List Byte) (s : State) : (feed c s).params = s.params := rfl

@[simp] theorem feed_nil (s : State) : feed [] s = s := by
  simp [feed]

@[simp] theorem feed_feed (c d : List Byte) (s : State) : feed d (feed c s) = feed (c ++ d) s := by
  simp [feed]

@[simp] theorem endWithCount_feed (c : List Byte) (s : State) :
    endWithCount (feed c s) = endWithCount s := rfl

@[simp] theorem endWithFormatError_feed (c : List Byte) (s : State) :
    endWithFormatError (feed c s) = endWithFormatError s := rfl

/-- With an unbounded buffer Append always appends (R51, R63). -/
theorem append_of_unbounded {c : List Byte} {s : State} (h : s.params.bufCap = none) :
    append c s = .next (feed c s) :=
  append_eq_next.2 ⟨by simp [fitsCap, h], rfl⟩

/-! ## The steps with more bytes -/

/-- The result of a step with the bytes of `c` behind what it left; TERMINATE leaves an empty buffer. -/
def StepOut.feed (c : List Byte) : StepOut → StepOut
  | .moved t => .moved (Machine.feed c t)
  | .wait => .wait
  | .ended t => .ended t

/-- A step's answer with the bytes of `c` behind what it left. -/
def feedAnswer (c : List Byte) (r : Res StepOut) : Res StepOut := andThen r fun o => .next (o.feed c)

@[simp] theorem feedAnswer_moved (c : List Byte) (t : State) :
    feedAnswer c (.next (.moved t)) = .next (.moved (feed c t)) := rfl
@[simp] theorem feedAnswer_ended (c : List Byte) (t : State) :
    feedAnswer c (.next (.ended t)) = .next (.ended t) := rfl
@[simp] theorem feedAnswer_refused (c : List Byte) (r : Refusal) :
    feedAnswer c (.refused r) = .refused r := rfl

theorem stepId3_feed {s : State} (c : List Byte) (hw : stepId3 s ≠ .next .wait) :
    stepId3 (feed c s) = feedAnswer c (stepId3 s) := by
  rw [stepId3_eq] at hw
  rw [stepId3_eq, stepId3_eq]
  have h10 : ¬ s.buf.length < 10 := fun h => hw (if_pos h)
  simp only [feed_buf, List.length_append, startsWithId3_append (show 3 ≤ s.buf.length by omega),
    bytesAt_append (show 6 + 4 ≤ s.buf.length by omega), h10,
    show ¬ s.buf.length + c.length < 10 by omega, if_false] at hw ⊢
  by_cases hm : startsWithId3 s.buf = true
  · simp only [hm, if_true] at hw ⊢
    have hl : ¬ s.buf.length < tagskip (bytesAt s.buf 6) := fun h => hw (if_pos h)
    rw [if_neg hl, if_neg (by omega), feedAnswer_moved,
      List.drop_append_of_le_length (Nat.le_of_not_lt hl)]
    rfl
  · rw [if_neg hm, if_neg hm, feedAnswer_moved]
    rfl

theorem stepFirst_feed {s : State} (c : List Byte) (hw : stepFirst s ≠ .next .wait) :
    stepFirst (feed c s) = feedAnswer c (stepFirst s) := by
  rw [stepFirst_eq] at hw
  rw [stepFirst_eq, stepFirst_eq]
  have h4 : ¬ s.buf.length < 4 := fun h => hw (if_pos h)
  simp only [feed_buf, List.length_append, headerOf_append (show 4 ≤ s.buf.length by omega), h4,
    show ¬ s.buf.length + c.length < 4 by omega, if_false]
  split
  · rfl
  · rfl

theorem skipMarker_feed {s : State} (h : Word) (c : List Byte) (hw : skipMarker h s ≠ .next .wait) :
    skipMarker h (feed c s) = feedAnswer c (skipMarker h s) := by
  rw [skipMarker_eq] at hw
  rw [skipMarker_eq, skipMarker_eq]
  cases hf : framelenOf h with
  | invalid => rfl
  | bytes l =>
    simp only [hf] at hw ⊢
    have hl : ¬ s.buf.length < l := fun h => hw (if_pos h)
    rw [if_neg hl, if_neg (by rw [feed_buf, List.length_append]; omega), feedAnswer_moved, feed_buf,
      List.drop_append_of_le_length (Nat.le_of_not_lt hl)]
    rfl

theorem stepVbr_feed {s : State} (c : List Byte) (hw : stepVbr s ≠ .next .wait) :
    stepVbr (feed c s) = feedAnswer c (stepVbr s) := by
  rw [stepVbr_eq] at hw
  rw [stepVbr_eq, stepVbr_eq]
  have hl : ¬ s.buf.length < vbroff s.firstChmode + 12 := fun h => hw (if_pos h)
  simp only [feed_buf, feed_firstChmode, List.length_append, hl,
    show ¬ s.buf.length + c.length < vbroff s.firstChmode + 12 by omega, if_false,
    vbrTagAt_append (show vbroff s.firstChmode + 4 ≤ s.buf.length by omega),
    headerOf_append (show 4 ≤ s.buf.length by omega)] at hw ⊢
  by_cases ht : vbrTagAt (vbroff s.firstChmode) s.buf = true
  · rw [if_pos ht] at hw
    rw [if_pos ht, if_pos ht, skipMarker_feed _ _ hw]
  · rw [if_neg ht, if_neg ht]
    rfl

theorem scanFrame_feed {s : State} (h : Word) (c : List Byte) (hw : scanFrame h s ≠ .next .wait) :
    scanFrame h (feed c s) = feedAnswer c (scanFrame h s) := by
  rw [scanFrame_eq] at hw
  rw [scanFrame_eq, scanFrame_eq]
  cases hf : framelenOf h with
  | invalid => rfl
  | bytes l =>
    simp only [hf] at hw ⊢
    have hl : ¬ s.buf.length < l := fun h => hw (if_pos h)
    rw [if_neg hl, if_neg (by rw [feed_buf, List.length_append]; omega), feed_count, feed_buf,
      List.drop_append_of_le_length (Nat.le_of_not_lt hl)]
    split
    · rfl
    · rfl

theorem stepScan_feed {s : State} (c : List Byte) (hw : stepScan s ≠ .next .wait) :
    stepScan (feed c s) = feedAnswer c (stepScan s) := by
  rw [stepScan_eq] at hw
  rw [stepScan_eq, stepScan_eq]
  have h4 : ¬ s.buf.length < 4 := fun h => hw (if_pos h)
  simp only [feed_buf, List.length_append, headerOf_append (show 4 ≤ s.buf.length by omega), h4,
    show ¬ s.buf.length + c.length < 4 by omega, if_false] at hw ⊢
  by_cases hv : hdrvalid (headerOf s.buf) = true
  · rw [if_pos hv] at hw
    rw [if_pos hv, if_pos hv, scanFrame_feed _ _ hw]
  · rw [if_neg hv, if_neg hv]
    rfl

/-- A step that does not wait does the same with more bytes behind, and leaves them behind. -/
theorem stepOfPhase_feed {s : State} (c : List Byte) (hw : stepOfPhase s ≠ .next .wait) :
    stepOfPhase (feed c s) = feedAnswer c (stepOfPhase s) := by
  simp only [stepOfPhase, feed_phase] at hw ⊢
  cases hp : s.phase <;> simp only [hp] at hw ⊢
  case awaitingId3 => exact stepId3_feed c hw
  case awaitingFirstFrameHeader => exact stepFirst_feed c hw
  case awaitingVbrDecision => exact stepVbr_feed c hw
  case scanningFrames => exact stepScan_feed c hw
  case done => exact absurd rfl hw
  case failed => exact absurd rfl hw

end Sys2Proof.Machine
end

section
/-! PROOF. Chunk boundaries are not seen (R159): pushes after an ADVANCE are one ADVANCE over all their bytes.
From this every run `RESET, PUSH c1, ..., PUSH ck, EOS` is one ADVANCE and one EOS. -/

namespace Sys2Proof.Machine

/-! ## Events by phase -/

theorem exec_push_of_terminal {s : State} (c : List Byte) (h : s.phase.isTerminal = true) :
    exec (.push c) s = .next s := if_pos h

theorem exec_push_of_running {s : State} (c : List Byte) (h : s.phase.isTerminal = false)
    (hc : s.params.bufCap = none) : exec (.push c) s = advance (feed c s) := by
  have hr : exec (.push c) s = andThen (append c s) advance := if_neg (by simp [h])
  rw [hr, append_of_unbounded hc, andThen_next]

theorem exec_eos_of_terminal {s : State} (h : s.phase.isTerminal = true) :
    exec .eos s = .next s := if_pos h

theorem exec_eos_of_running {s : State} (h : s.phase.isTerminal = false) :
    exec .eos s = .next (endWithCount s) := if_neg (by simp [h])

/-! ## ADVANCE by its step -/

theorem advance_of_wait {s : State} (h : stepOfPhase s = .next .wait) : advance s = .next s := by
  rw [advance_eq, h]; rfl

theorem advance_of_moved {s t : State} (h : stepOfPhase s = .next (.moved t)) :
    advance s = advance t := by
  rw [advance_eq, h]; rfl

theorem advance_of_ended {s t : State} (h : stepOfPhase s = .next (.ended t)) :
    advance s = .next t := by
  rw [advance_eq, h]; rfl

theorem advance_of_refused {s : State} {r : Refusal} (h : stepOfPhase s = .refused r) :
    advance s = .refused r := by
  rw [advance_eq, h]; rfl

theorem isTerminal_of_ended {s t : State} (h : stepOfPhase s = .next (.ended t)) :
    t.phase.isTerminal = true := by
  rcases stepOfPhase_ended h with ⟨-, rfl⟩ | ⟨-, rfl⟩
  · rfl
  · rfl

/-- A step that moved leaves the scan running and the parameters as they were. -/
theorem running_and_params_of_moved {s t : State} (h : stepOfPhase s = .next (.moved t)) :
    t.phase.isTerminal = false ∧ t.params = s.params := by
  obtain ⟨n, ph, cm, ct, -, rfl, -, -, hph, -⟩ := stepOfPhase_moved h
  exact ⟨hph, rfl⟩

/-! ## Chunks -/

/-- ADVANCE and then a chunk is ADVANCE with the chunk already there: by induction along the first ADVANCE,
whose steps the longer buffer repeats. -/
theorem advance_then_push (c : List Byte) : ∀ s : State, s.phase.isTerminal = false →
    s.params.bufCap = none → andThen (advance s) (exec (.push c)) = advance (feed c s) := by
  refine advance_induction (P := fun s r => s.phase.isTerminal = false → s.params.bufCap = none →
    andThen r (exec (.push c)) = advance (feed c s)) ?wait ?ended ?refused ?moved
  case wait =>
    intro s _ hr hc
    exact exec_push_of_running c hr hc
  case ended =>
    intro s t h _ _
    have hf : stepOfPhase (feed c s) = .next (.ended t) := by
      rw [stepOfPhase_feed c (by simp [h]), h, feedAnswer_ended]
    rw [advance_of_ended hf]
    exact exec_push_of_terminal c (isTerminal_of_ended h)
  case refused =>
    intro s r h _ _
    have hf : stepOfPhase (feed c s) = .refused r := by
      rw [stepOfPhase_feed c (by simp [h]), h, feedAnswer_refused]
    rw [advance_of_refused hf, andThen_refused]
  case moved =>
    intro s t h ih _ hc
    obtain ⟨htr, htp⟩ := running_and_params_of_moved h
    have hf : stepOfPhase (feed c s) = .next (.moved (feed c t)) := by
      rw [stepOfPhase_feed c (by simp [h]), h, feedAnswer_moved]
    rw [advance_of_moved hf]
    exact advance_of_moved h ▸ ih htr (htp ▸ hc)

/-- ADVANCE and then any number of chunks is ADVANCE with all their bytes already there. -/
theorem advance_then_pushAll (cs : List (List Byte)) : ∀ s : State, s.phase.isTerminal = false →
    s.params.bufCap = none → andThen (advance s) (pushAll cs) = advance (feed cs.flatten s) := by
  induction cs with
  | nil =>
    intro s _ _
    rw [List.flatten_nil, feed_nil]
    cases advance s <;> rfl
  | cons c cs ih =>
    intro s hr hc
    calc andThen (advance s) (pushAll (c :: cs))
        = andThen (andThen (advance s) (exec (.push c))) (pushAll cs) := (andThen_assoc _ _ _).symm
      _ = andThen (advance (feed c s)) (pushAll cs) := by rw [advance_then_push c s hr hc]
      _ = advance (feed (c :: cs).flatten s) := by
        rw [ih (feed c s) hr hc, feed_feed, List.flatten_cons]

/-! ## The run of SCAN -/

theorem runAll_append (is js : List Instr) (s : State) :
    runAll (is ++ js) s = andThen (runAll is s) (runAll js) := by
  induction is generalizing s with
  | nil => rfl
  | cons i is ih =>
    simp only [List.cons_append, runAll, andThen_assoc]
    exact congrArg (andThen _) (funext ih)

theorem runAll_singleton (i : Instr) (s : State) : runAll [i] s = exec i s := by
  unfold runAll
  cases exec i s <;> rfl

/-- After RESET the block waits (R34, R158). -/
theorem advance_resetBlock (s : State) : advance (resetBlock s) = .next (resetBlock s) :=
  advance_of_wait (by simp [stepOfPhase, stepId3_eq])

/-- RESET and then chunks is ADVANCE over the stream, from the reset block. -/
theorem runAll_reset_push (cs : List (List Byte)) (s : State) (hc : s.params.bufCap = none) :
    runAll (.reset :: cs.map .push) s = advance (feed cs.flatten (resetBlock s)) := by
  have h := advance_then_pushAll cs (resetBlock s) rfl hc
  rwa [advance_resetBlock] at h

/-- The run of SCAN is one ADVANCE over the stream, then EOS (R192). -/
theorem runAll_scanRun (cs : List (List Byte)) (s : State) (hc : s.params.bufCap = none) :
    runAll (scanRun cs) s =
      andThen (advance (feed cs.flatten (resetBlock s))) (exec .eos) := by
  rw [scanRun, runAll_append, runAll_reset_push cs s hc]
  exact congrArg (andThen _) (funext (runAll_singleton .eos))

end Sys2Proof.Machine
end

section
/-! PROOF. The result of ADVANCE and EOS, phase by phase from the last to the first, is the stream function of
the bytes in the buffer (R61, R152 to R155, R192). -/

namespace Sys2Proof.Machine

/-- The outcome after ADVANCE over the bytes that are there and then EOS (R192). -/
def resultAtEos (s : State) : Res ScanResult := resultOf (andThen (advance s) (exec .eos))

theorem resultAtEos_of_wait {s : State} (hr : s.phase.isTerminal = false)
    (h : stepOfPhase s = .next .wait) : resultAtEos s = .next (.count s.count) := by
  rw [resultAtEos, advance_of_wait h, andThen_next, exec_eos_of_running hr]
  rfl

theorem resultAtEos_of_moved {s t : State} (h : stepOfPhase s = .next (.moved t)) :
    resultAtEos s = resultAtEos t := by
  rw [resultAtEos, advance_of_moved h, resultAtEos]

theorem resultAtEos_of_ended {s t : State} (h : stepOfPhase s = .next (.ended t)) :
    resultAtEos s = .next t.outcome := by
  rw [resultAtEos, advance_of_ended h, andThen_next, exec_eos_of_terminal (isTerminal_of_ended h)]
  rfl

/-- Below the bound of R23 a whole frame finds a count that can still grow. -/
theorem count_ne_last {s : State} {l : Nat} (hl : 96 ≤ l) (hle : l ≤ s.buf.length)
    (hb : s.count.toNat + s.buf.length / 96 < 2 ^ 32) : s.count ≠ 0xFFFFFFFF#32 := by
  intro hc
  rw [hc, show (0xFFFFFFFF#32).toNat = 2 ^ 32 - 1 from rfl] at hb
  omega

/-- Counting a frame keeps the bound of R23: it took at least 96 bytes. -/
theorem countBound_of_frame {s : State} {l : Nat} (hl : 96 ≤ l) (hle : l ≤ s.buf.length)
    (hb : s.count.toNat + s.buf.length / 96 < 2 ^ 32) :
    (s.count + 1).toNat + (s.buf.drop l).length / 96 < 2 ^ 32 := by
  have hadd : (s.count + 1).toNat ≤ s.count.toNat + 1 := by
    rw [BitVec.toNat_add]
    exact Nat.mod_le _ _
  rw [List.length_drop]
  omega

/-- In phase ScanningFrames the result is the count so far and the whole frames at the front (R155): by
induction on the fuel of `wholeFrames`, one frame a round. -/
theorem resultAtEos_scanning (fuel : Nat) : ∀ s : State, s.phase = .scanningFrames →
    s.buf.length ≤ fuel → s.count.toNat + s.buf.length / 96 < 2 ^ 32 →
    resultAtEos s = .next (.count (s.count + BitVec.ofNat 32 (wholeFrames fuel s.buf))) := by
  induction fuel with
  | zero =>
    intro s hp hf _
    rw [resultAtEos_of_wait (by simp [hp, Phase.isTerminal])
      (by rw [stepOfPhase, hp]; simp [stepScan_eq, show s.buf.length < 4 by omega])]
    simp [wholeFrames]
  | succ fuel ih =>
    intro s hp hf hb
    have hr : s.phase.isTerminal = false := by rw [hp]; rfl
    have hs : stepOfPhase s = stepScan s := by rw [stepOfPhase, hp]
    rw [stepScan_eq, scanFrame_eq] at hs
    by_cases h4 : s.buf.length < 4
    · rw [if_pos h4] at hs
      simp [resultAtEos_of_wait hr hs, wholeFrames, h4]
    rw [if_neg h4] at hs
    by_cases hv : hdrvalid (headerOf s.buf) = true
    case neg =>
      rw [if_neg hv] at hs
      simp [resultAtEos_of_ended hs, wholeFrames, hv]
    rw [if_pos hv] at hs
    cases hl : framelenOf (headerOf s.buf) with
    | invalid =>
      simp only [hl] at hs
      simp [resultAtEos_of_ended hs, wholeFrames, hl]
    | bytes l =>
      simp only [hl] at hs
      have h96 := (framelenOf_bounds hl).1
      by_cases hlt : s.buf.length < l
      · rw [if_pos hlt] at hs
        simp [resultAtEos_of_wait hr hs, wholeFrames, hl, hlt]
      have hle : l ≤ s.buf.length := by omega
      rw [if_neg hlt, if_neg (count_ne_last h96 hle hb)] at hs
      have hfuel : (s.buf.drop l).length ≤ fuel := by rw [List.length_drop]; omega
      rw [resultAtEos_of_moved hs, ih _ (by exact hp) hfuel (countBound_of_frame h96 hle hb)]
      simp [wholeFrames, h4, hv, hl, hlt, BitVec.ofNat_add, BitVec.add_assoc, BitVec.add_comm 1#32]

/-- The result of the frames after the first one, as `scanFrames` reads it off `afterMarker`. -/
def resultAfterMarker : Option (List Byte) → ScanResult
  | none => .count 0
  | some rest => .count (BitVec.ofNat 32 (wholeFrames rest.length rest))

theorem scanFrames_of_valid {stream : List Byte} (h4 : 4 ≤ stream.length)
    (hv : hdrvalid (headerOf stream) = true) :
    scanFrames stream = resultAfterMarker (afterMarker stream) := by
  rw [scanFrames, if_neg (by omega), if_pos hv]
  cases afterMarker stream <;> rfl

/-- The scan of frames that begins with the count at 0. -/
theorem resultAtEos_scanning_zero {s : State} (hp : s.phase = .scanningFrames) (hc : s.count = 0)
    (hb : s.buf.length < 96 * 2 ^ 32) :
    resultAtEos s = .next (resultAfterMarker (some s.buf)) := by
  have h0 : s.count.toNat + s.buf.length / 96 < 2 ^ 32 := by
    rw [hc, show (0 : BitVec 32).toNat = 0 from rfl]
    omega
  rw [resultAtEos_scanning _ s hp le_rfl h0, hc]
  simp [resultAfterMarker]

/-- In phase AwaitingVBRDecision the result is that of the frames after the marker frame, where there is
one (R154). -/
theorem resultAtEos_vbr {s : State} (hp : s.phase = .awaitingVbrDecision)
    (hm : s.firstChmode = hdrChannelMode (headerOf s.buf)) (hc : s.count = 0)
    (hb : s.buf.length < 96 * 2 ^ 32) :
    resultAtEos s = .next (resultAfterMarker (afterMarker s.buf)) := by
  have hr : s.phase.isTerminal = false := by rw [hp]; rfl
  have hs : stepOfPhase s = stepVbr s := by rw [stepOfPhase, hp]
  rw [stepVbr_eq, skipMarker_eq, hm] at hs
  by_cases hw : s.buf.length < vbroff (hdrChannelMode (headerOf s.buf)) + 12
  · rw [if_pos hw] at hs
    simp [resultAtEos_of_wait hr hs, afterMarker, hw, hc, resultAfterMarker]
  rw [if_neg hw] at hs
  by_cases ht : vbrTagAt (vbroff (hdrChannelMode (headerOf s.buf))) s.buf = true
  case neg =>
    rw [if_neg ht] at hs
    have ha : afterMarker s.buf = some s.buf := by simp [afterMarker, hw, ht]
    rw [resultAtEos_of_moved hs, ha]
    exact resultAtEos_scanning_zero rfl hc hb
  rw [if_pos ht] at hs
  cases hl : framelenOf (headerOf s.buf) with
  | invalid =>
    simp only [hl] at hs
    have ha : afterMarker s.buf = some s.buf := by simp [afterMarker, hw, hl]
    rw [resultAtEos_of_moved hs, ha]
    exact resultAtEos_scanning_zero rfl hc hb
  | bytes l =>
    simp only [hl] at hs
    by_cases hlt : s.buf.length < l
    · rw [if_pos hlt] at hs
      simp [resultAtEos_of_wait hr hs, afterMarker, hw, ht, hl, hlt, hc, resultAfterMarker]
    · rw [if_neg hlt] at hs
      have ha : afterMarker s.buf = some (s.buf.drop l) := by simp [afterMarker, hw, ht, hl, hlt]
      have hb' : (s.buf.drop l).length < 96 * 2 ^ 32 := by rw [List.length_drop]; omega
      rw [resultAtEos_of_moved hs, ha]
      exact resultAtEos_scanning_zero rfl hc hb'

/-- In phase AwaitingFirstFrameHeader the first header is judged (R153). -/
theorem resultAtEos_first {s : State} (hp : s.phase = .awaitingFirstFrameHeader) (hc : s.count = 0)
    (hb : s.buf.length < 96 * 2 ^ 32) : resultAtEos s = .next (scanFrames s.buf) := by
  have hr : s.phase.isTerminal = false := by rw [hp]; rfl
  have hs : stepOfPhase s = stepFirst s := by rw [stepOfPhase, hp]
  rw [stepFirst_eq] at hs
  by_cases h4 : s.buf.length < 4
  · rw [if_pos h4] at hs
    simp [resultAtEos_of_wait hr hs, scanFrames, h4, hc]
  rw [if_neg h4] at hs
  by_cases hv : hdrvalid (headerOf s.buf) = true
  · rw [if_pos hv] at hs
    rw [resultAtEos_of_moved hs, scanFrames_of_valid (by omega) hv]
    exact resultAtEos_vbr rfl rfl hc hb
  · rw [if_neg hv] at hs
    rw [resultAtEos_of_ended hs, scanFrames, if_neg h4, if_neg hv, endWithFormatError_outcome]

/-- In phase AwaitingID3 a tag is skipped whole, and the rest is the stream of frames (R152). -/
theorem resultAtEos_id3 {s : State} (hp : s.phase = .awaitingId3) (hc : s.count = 0)
    (hb : s.buf.length < 96 * 2 ^ 32) : resultAtEos s = .next (scanStream s.buf) := by
  have hr : s.phase.isTerminal = false := by rw [hp]; rfl
  have hs : stepOfPhase s = stepId3 s := by rw [stepOfPhase, hp]
  rw [stepId3_eq] at hs
  by_cases h10 : s.buf.length < 10
  · rw [if_pos h10] at hs
    simp [resultAtEos_of_wait hr hs, scanStream, h10, hc]
  rw [if_neg h10] at hs
  by_cases hm : startsWithId3 s.buf = true
  case neg =>
    rw [if_neg hm] at hs
    rw [resultAtEos_of_moved hs, scanStream, if_neg h10, if_neg hm]
    exact resultAtEos_first rfl hc hb
  rw [if_pos hm] at hs
  by_cases hl : s.buf.length < tagskip (bytesAt s.buf 6)
  · rw [if_pos hl] at hs
    simp [resultAtEos_of_wait hr hs, scanStream, h10, hm, hl, hc]
  · rw [if_neg hl] at hs
    have hb' : (s.buf.drop (tagskip (bytesAt s.buf 6))).length < 96 * 2 ^ 32 := by
      rw [List.length_drop]; omega
    rw [resultAtEos_of_moved hs, scanStream, if_neg h10, if_pos hm, if_neg hl]
    exact resultAtEos_first rfl hc hb'

/-- Settles O56: the run is one ADVANCE over the stream and one EOS, from the reset block, which is the
phase-by-phase result of the stream's bytes. -/
theorem runComputesTheStreamFunction : Obligations.RunComputesTheStreamFunction := by
  intro s cs hc hb
  rw [runAll_scanRun cs s hc]
  exact resultAtEos_id3 rfl rfl hb

end Sys2Proof.Machine
end

section
/-! PROOF. A stream unit, at its place or not, is the step of the phase (R80, R91, R93): the nine stream-format
rows of the table as one equation, `exec_of_isStreamUnit`. -/

namespace Sys2Proof.Machine

/-! ## The step each phase selects (R150) -/

theorem stepOfPhase_awaitingId3 {s : State} (hp : s.phase = .awaitingId3) :
    stepOfPhase s = stepId3 s := by rw [stepOfPhase, hp]

theorem stepOfPhase_awaitingFirstFrameHeader {s : State} (hp : s.phase = .awaitingFirstFrameHeader) :
    stepOfPhase s = stepFirst s := by rw [stepOfPhase, hp]

theorem stepOfPhase_awaitingVbrDecision {s : State} (hp : s.phase = .awaitingVbrDecision) :
    stepOfPhase s = stepVbr s := by rw [stepOfPhase, hp]

theorem stepOfPhase_scanningFrames {s : State} (hp : s.phase = .scanningFrames) :
    stepOfPhase s = stepScan s := by rw [stepOfPhase, hp]

/-! ## The steps on a header at the front -/

theorem stepFirst_of_valid {s : State} (h4 : 4 ≤ s.buf.length) (hv : hdrvalid (headerOf s.buf) = true) :
    stepFirst s = .next (.moved (acceptFirst (headerOf s.buf) s)) := by
  rw [stepFirst_eq, if_neg (by omega), if_pos hv]

theorem stepFirst_of_invalid {s : State} (h4 : 4 ≤ s.buf.length)
    (hv : hdrvalid (headerOf s.buf) = false) :
    stepFirst s = .next (.ended (endWithFormatError s)) := by
  rw [stepFirst_eq, if_neg (by omega), if_neg (by simp [hv])]

theorem stepScan_of_valid {s : State} (h4 : 4 ≤ s.buf.length) (hv : hdrvalid (headerOf s.buf) = true) :
    stepScan s = scanFrame (headerOf s.buf) s := by
  rw [stepScan_eq, if_neg (by omega), if_pos hv]

theorem stepScan_of_invalid {s : State} (h4 : 4 ≤ s.buf.length)
    (hv : hdrvalid (headerOf s.buf) = false) : stepScan s = .next (.ended (endWithCount s)) := by
  rw [stepScan_eq, if_neg (by omega), if_neg (by simp [hv])]

/-- A frame of Invalid length ends the scan (R155). -/
theorem scanFrame_of_invalid {h : Word} (hl : framelenOf h = .invalid) (s : State) :
    scanFrame h s = .next (.ended (endWithCount s)) := by
  rw [scanFrame_eq, hl]

/-- With a first header of Invalid length the VBR decision consumes nothing, tag or no tag (R154, D11). -/
theorem stepVbr_of_invalid {s : State} (hl : framelenOf (headerOf s.buf) = .invalid) :
    stepVbr s = if s.buf.length < vbroff s.firstChmode + vbrWaitExtra then .next .wait
      else .next (.moved { s with phase := .scanningFrames }) := by
  simp only [stepVbr_eq, skipMarker_eq, hl, ite_self]
  rfl

/-! ## Header units -/

/-- A header unit is the step of the phase when its row's branch is that step wherever it is taken. -/
theorem meetHeader_eq_runPhaseStep {kind : Bool} {h : Word} {act : Phase → Res StepOut} {s : State}
    (hact : kind = true → 4 ≤ s.buf.length → headerOf s.buf = h → act s.phase = stepOfPhase s) :
    meetHeader kind h act s = runPhaseStep s := by
  by_cases hm : s.phase.isTerminal = false ∧ kind = true ∧ 4 ≤ s.buf.length ∧ headerOf s.buf = h
  · obtain ⟨ht, hk, hl, hh⟩ := hm
    rw [(meetHeader_eq kind h act s).1 ht hk hl hh, hact hk hl hh, runPhaseStep_of_running ht]
  · refine (meetHeader_eq kind h act s).2 ?_
    rw [← Bool.not_eq_false, ← Bool.not_eq_true kind, ← Nat.not_le]
    tauto

theorem execHdrValid_eq (h : Word) (s : State) : execHdrValid h s = runPhaseStep s := by
  refine meetHeader_eq_runPhaseStep fun hv h4 hh => ?_
  subst hh
  cases hp : s.phase
  case awaitingFirstFrameHeader =>
    rw [stepOfPhase_awaitingFirstFrameHeader hp, stepFirst_of_valid h4 hv]
  case awaitingVbrDecision => exact (stepOfPhase_awaitingVbrDecision hp).symm
  case scanningFrames => rw [stepOfPhase_scanningFrames hp, stepScan_of_valid h4 hv]
  all_goals rfl

theorem execHdrInvalidFirst_eq (h : Word) (s : State) : execHdrInvalidFirst h s = runPhaseStep s := by
  refine meetHeader_eq_runPhaseStep fun hv h4 hh => ?_
  subst hh
  cases hp : s.phase
  case awaitingFirstFrameHeader =>
    rw [stepOfPhase_awaitingFirstFrameHeader hp, stepFirst_of_invalid h4 (by simpa using hv)]
  all_goals rfl

theorem execHdrInvalidLater_eq (h : Word) (s : State) : execHdrInvalidLater h s = runPhaseStep s := by
  refine meetHeader_eq_runPhaseStep fun hv h4 hh => ?_
  subst hh
  cases hp : s.phase
  case scanningFrames =>
    rw [stepOfPhase_scanningFrames hp, stepScan_of_invalid h4 (by simpa using hv)]
  all_goals rfl

/-- The branches of a reserved-length row are the steps of the phases (R91). -/
theorem reservedLength_eq {s : State} (h4 : 4 ≤ s.buf.length) (hv : hdrvalid (headerOf s.buf) = true)
    (hl : framelenOf (headerOf s.buf) = .invalid) :
    reservedLength (headerOf s.buf) s s.phase = stepOfPhase s := by
  cases hp : s.phase
  case awaitingFirstFrameHeader =>
    rw [stepOfPhase_awaitingFirstFrameHeader hp, stepFirst_of_valid h4 hv]
    rfl
  case awaitingVbrDecision =>
    rw [stepOfPhase_awaitingVbrDecision hp, stepVbr_of_invalid hl]
    rfl
  case scanningFrames =>
    rw [stepOfPhase_scanningFrames hp, stepScan_of_valid h4 hv, scanFrame_of_invalid hl]
    rfl
  all_goals rfl

/-- Any row of a valid header whose length is Invalid. -/
theorem meetReservedLength_eq {kind : Bool} {h : Word} (s : State)
    (hk : kind = true → hdrvalid h = true ∧ framelenOf h = .invalid) :
    meetHeader kind h (reservedLength h s) s = runPhaseStep s := by
  refine meetHeader_eq_runPhaseStep fun hkind h4 hh => ?_
  subst hh
  obtain ⟨hv, hl⟩ := hk hkind
  exact reservedLength_eq h4 hv hl

/-- A bitrate index without an entry makes the length Invalid (R130). -/
theorem framelenOf_of_bitrate {h : Word} (hb : bitrateAt (hdrBitrateIndex h) = 0) :
    framelenOf h = .invalid := if_pos (.inl hb)

/-- A sample-rate index without an entry makes the length Invalid (R130). -/
theorem framelenOf_of_sampleRate {h : Word} (hr : sampleRateAt (hdrSampleRateIndex h) = 0) :
    framelenOf h = .invalid := if_pos (.inr hr)

theorem execHdrLenReservedBr0_eq (h : Word) (s : State) :
    execHdrLenReservedBr0 h s = runPhaseStep s := by
  refine meetReservedLength_eq s fun hk => ?_
  obtain ⟨hv, hb⟩ := Bool.and_eq_true_iff.1 hk
  exact ⟨hv, framelenOf_of_bitrate (by rw [eq_of_beq hb]; rfl)⟩

theorem execHdrLenReservedBr15_eq (h : Word) (s : State) :
    execHdrLenReservedBr15 h s = runPhaseStep s := by
  refine meetReservedLength_eq s fun hk => ?_
  obtain ⟨hv, hb⟩ := Bool.and_eq_true_iff.1 hk
  exact ⟨hv, framelenOf_of_bitrate (by rw [eq_of_beq hb]; rfl)⟩

theorem execHdrLenReservedSr3_eq (h : Word) (s : State) :
    execHdrLenReservedSr3 h s = runPhaseStep s := by
  refine meetReservedLength_eq s fun hk => ?_
  obtain ⟨hv, hr⟩ := Bool.and_eq_true_iff.1 hk
  exact ⟨hv, framelenOf_of_sampleRate (by rw [eq_of_beq hr]; rfl)⟩

/-! ## Tag units -/

/-- What stands at the front with an ID3v2 tag header: ten bytes, the magic and the size bytes (R84). -/
theorem id3_of_tagAtFront {v : BitVec 16} {f : Byte} {z : Bytes4} {s : State}
    (h : tagAtFront v f z s = true) :
    10 ≤ s.buf.length ∧ startsWithId3 s.buf = true ∧ bytesAt s.buf 6 = z := by
  have ht : s.buf.take 10 = id3HeaderBytes v f z := eq_of_beq h
  have hb : s.buf = id3HeaderBytes v f z ++ s.buf.drop 10 := by rw [← ht, List.take_append_drop]
  have h10 : (id3HeaderBytes v f z).length = 10 := rfl
  refine ⟨?_, ?_, ?_⟩
  · rw [hb, List.length_append, h10]
    omega
  · rw [hb, startsWithId3_append (by omega)]
    rfl
  · rw [hb, bytesAt_append (by omega)]
    rfl

theorem execId3Magic_eq (v : BitVec 16) (f : Byte) (z : Bytes4) (s : State) :
    execId3Magic v f z s = runPhaseStep s := by
  unfold execId3Magic
  split
  · rename_i hm
    obtain ⟨hp, ht⟩ := hm
    obtain ⟨h10, hs, rfl⟩ := id3_of_tagAtFront ht
    rw [runPhaseStep_of_running (by rw [hp]; rfl), stepOfPhase_awaitingId3 hp, stepId3_eq,
      if_neg (show ¬ s.buf.length < 10 by omega), if_pos hs]
    by_cases hl : s.buf.length < tagskip (bytesAt s.buf 6)
    · simp only [if_pos hl]
    · simp only [if_neg hl, consume_of_le (Nat.le_of_not_lt hl), andThen_next]
  · rfl

theorem meetVbrTag_eq_runPhaseStep {tag : Bytes4} (htag : tag = xingBytes ∨ tag = infoBytes) (s : State) :
    meetVbrTag tag s = runPhaseStep s := by
  cases hm : vbrTagMet tag s
  case false => exact meetVbrTag_of_unmet hm
  case true =>
    obtain ⟨hp, hl, hb⟩ := vbrTagMet_iff.1 hm
    have hv : vbrTagAt (vbroff s.firstChmode) s.buf = true := by
      rw [vbrTagAt, hb]
      rcases htag with rfl | rfl
      · rfl
      · rfl
    rw [meetVbrTag_eq hm, runPhaseStep_of_running (by rw [hp]; rfl),
      stepOfPhase_awaitingVbrDecision hp, stepVbr_eq, if_neg (by omega), if_pos hv]

/-! ## All nine rows -/

/-- The rows of the three stream formats (R80). -/
def isStreamUnit : Instr → Bool
  | .hdrValid _ | .hdrInvalidFirst _ | .hdrInvalidLater _ | .hdrLenReservedBr0 _
  | .hdrLenReservedBr15 _ | .hdrLenReservedSr3 _ | .id3Magic _ _ _ | .vbrXing | .vbrInfo => true
  | _ => false

/-- A stream unit is the step of the phase, and nothing in a terminal phase (R80, R85, R86, R93, R185). -/
theorem exec_of_isStreamUnit {i : Instr} (hi : isStreamUnit i = true) (s : State) : exec i s = runPhaseStep s := by
  cases i with
  | hdrValid h => exact execHdrValid_eq h s
  | hdrInvalidFirst h => exact execHdrInvalidFirst_eq h s
  | hdrInvalidLater h => exact execHdrInvalidLater_eq h s
  | hdrLenReservedBr0 h => exact execHdrLenReservedBr0_eq h s
  | hdrLenReservedBr15 h => exact execHdrLenReservedBr15_eq h s
  | hdrLenReservedSr3 h => exact execHdrLenReservedSr3_eq h s
  | id3Magic v f z => exact execId3Magic_eq v f z s
  | vbrXing => exact meetVbrTag_eq_runPhaseStep (.inl rfl) s
  | vbrInfo => exact meetVbrTag_eq_runPhaseStep (.inr rfl) s
  | _ => cases hi

end Sys2Proof.Machine
end

section
/-! PROOF. The invariant of the block (R35, R24, R158, R20). `ScanInv` is what it says of a running scan but for
waiting: the loop of ADVANCE keeps it, and where the loop stops the scan waits or has ended. -/

namespace Sys2Proof.Machine

/-! ## A step that waits -/

/-- The step of the phase waits exactly where ADVANCE stops: in a waiting state (R158), or in a terminal
phase, which has no step. -/
theorem stepOfPhase_wait_iff {s : State} : stepOfPhase s = .next .wait ↔ Settled s := by
  cases hp : s.phase
  case awaitingId3 =>
    simp only [stepOfPhase_awaitingId3 hp, stepId3_eq, Settled, Waiting, threshold, hp]
    (repeat' split) <;> simp [*, Phase.isTerminal]
  case awaitingFirstFrameHeader =>
    simp only [stepOfPhase_awaitingFirstFrameHeader hp, stepFirst_eq, Settled, Waiting, threshold, hp]
    (repeat' split) <;> simp [*, Phase.isTerminal]
  case awaitingVbrDecision =>
    simp only [stepOfPhase_awaitingVbrDecision hp, stepVbr_eq, skipMarker_eq, Settled, Waiting, threshold,
      hp]
    (repeat' split) <;> simp [*, Phase.isTerminal, FrameLength.waitedFor]
  case scanningFrames =>
    simp only [stepOfPhase_scanningFrames hp, stepScan_eq, scanFrame_eq, Settled, Waiting, threshold, hp]
    (repeat' split) <;> simp [*, Phase.isTerminal, FrameLength.waitedFor]
  case done => simp [stepOfPhase, hp, Settled, Phase.isTerminal]
  case failed => simp [stepOfPhase, hp, Settled, Phase.isTerminal]

/-! ## The invariant of a running scan -/

/-- What `BlockInv` says of a running scan, but for waiting: it holds between any two steps of ADVANCE. -/
structure ScanInv (s : State) : Prop where
  running : s.phase.isTerminal = false
  noResult : s.outcome = .noResult
  noStop : s.stop = false
  early_count : s.phase.code.toNat ≤ 2 → s.count = 0
  start_pos : s.phase = .awaitingId3 → s.pos = 0
  chmode : s.phase = .awaitingVbrDecision →
    4 ≤ s.buf.length ∧ hdrvalid (headerOf s.buf) = true ∧ s.firstChmode = hdrChannelMode (headerOf s.buf)
  capacity : Memory.wf s.params s.buf = true
  source : ∀ c ∈ s.inbox, c.isHostInput = true

theorem BlockInv.scanInv {s : State} (h : BlockInv s) (hr : s.phase.isTerminal = false) : ScanInv s where
  running := hr
  noResult := h.noResult_iff.2 hr
  noStop := h.stop_eq.trans hr
  early_count := h.early_count
  start_pos := h.start_pos
  chmode := h.chmode
  capacity := h.capacity
  source := h.source

theorem ne_of_running {p q : Phase} (hp : p.isTerminal = false) (hq : q.isTerminal = true) : p ≠ q := by
  rintro rfl
  simp [hp] at hq

/-- A running scan that waits meets the invariant of the block. -/
theorem ScanInv.blockInv {s : State} (h : ScanInv s) (hw : Settled s) : BlockInv s where
  noResult_iff := by simp [h.noResult, h.running]
  stop_eq := h.noStop.trans h.running.symm
  done_iff := by simp [h.noResult, ne_of_running h.running (q := .done) rfl]
  count_done := by simp [h.noResult]
  failed_iff := by simp [h.noResult, ne_of_running h.running (q := .failed) rfl]
  terminal_empty := by simp [h.running]
  early_count := h.early_count
  start_pos := h.start_pos
  formatError_count := by simp [h.noResult]
  chmode := h.chmode
  settled := hw
  capacity := h.capacity
  source := h.source

/-! ## The ends of a scan and its start -/

/-- TERMINATE leaves the invariant when phase and outcome go together (R200), FormatError only before a frame
has been counted (R161). -/
theorem blockInv_terminate {p : Phase} {o : ScanResult} {s : State}
    (hpo : (p = .done ∧ o = .count s.count) ∨ (p = .failed ∧ o = .formatError ∧ s.count = 0) ∨
      (p = .failed ∧ ∃ e, o = .ioFailure e))
    (hs : ∀ c ∈ s.inbox, c.isHostInput = true) : BlockInv (terminate p o s) := by
  constructor
  case source => exact hs
  all_goals
    rcases hpo with ⟨rfl, rfl⟩ | ⟨rfl, rfl, hc⟩ | ⟨rfl, e, rfl⟩ <;>
      simp [Phase.isTerminal, Phase.code, Settled, *]

/-- A block with nothing in its buffer, before any byte of the stream, meets the invariant (R34). -/
theorem blockInv_of_start {s : State} (hp : s.phase = .awaitingId3) (hb : s.buf = []) (hc : s.count = 0)
    (ho : s.outcome = .noResult) (hst : s.stop = false) (hpos : s.pos = 0)
    (hs : ∀ c ∈ s.inbox, c.isHostInput = true) : BlockInv s := by
  have hscan : ScanInv s := by
    constructor
    case source => exact hs
    all_goals simp [*, Phase.isTerminal]
  exact hscan.blockInv (.inr (by simp [Waiting, threshold, hp, hb]))

/-! ## One step of ADVANCE -/

/-- The phase AwaitingVBRDecision is entered by accepting the first header, and in no other way (R153). -/
theorem stepOfPhase_moved_to_vbr {s t : State} (h : stepOfPhase s = .next (.moved t))
    (ht : t.phase = .awaitingVbrDecision) :
    4 ≤ s.buf.length ∧ hdrvalid (headerOf s.buf) = true ∧ t = acceptFirst (headerOf s.buf) s := by
  cases hp : s.phase
  case awaitingId3 =>
    rw [stepOfPhase_awaitingId3 hp, stepId3_eq] at h
    (repeat' split at h) <;> cases h <;> cases ht
  case awaitingFirstFrameHeader =>
    rw [stepOfPhase_awaitingFirstFrameHeader hp, stepFirst_eq] at h
    split at h
    · cases h
    · split at h <;> cases h
      exact ⟨by omega, ‹_›, rfl⟩
  case awaitingVbrDecision =>
    rw [stepOfPhase_awaitingVbrDecision hp, stepVbr_eq, skipMarker_eq] at h
    (repeat' split at h) <;> cases h <;> cases ht
  case scanningFrames =>
    obtain ⟨n, ph, cm, ct, -, rfl, -, -, -, hm⟩ := stepOfPhase_moved h
    cases ht
    simp [hp, Phase.code] at hm
  case done => simp [stepOfPhase, hp] at h
  case failed => simp [stepOfPhase, hp] at h

theorem ScanInv.moved {s t : State} (hs : ScanInv s) (h : stepOfPhase s = .next (.moved t)) :
    ScanInv t := by
  have hvbr := stepOfPhase_moved_to_vbr h
  obtain ⟨n, ph, cm, ct, hn, rfl, -, -, hr, hm⟩ := stepOfPhase_moved h
  constructor
  case running => exact hr
  case noResult => exact hs.noResult
  case noStop => exact hs.noStop
  case early_count =>
    intro he
    rcases hm with ⟨hlt, rfl⟩ | ⟨-, rfl, -⟩
    · exact hs.early_count (by simp only at he; omega)
    · simp [Phase.code] at he
  case start_pos =>
    rintro rfl
    rcases hm with ⟨hlt, -⟩ | ⟨-, hph, -⟩
    · simp [Phase.code] at hlt
    · cases hph
  case chmode =>
    intro hp
    obtain ⟨h4, hv, ht⟩ := hvbr hp
    rw [ht]
    exact ⟨h4, hv, rfl⟩
  case capacity => exact fitsCap_mono (by simp) hs.capacity
  case source => exact hs.source

/-! ## ADVANCE and the events -/

/-- ADVANCE takes a running scan to a state of the invariant: by induction along its steps. -/
theorem blockInv_of_advance : ∀ s, ScanInv s → ∀ t, advance s = .next t → BlockInv t := by
  refine advance_induction (P := fun s r => ScanInv s → ∀ t, r = .next t → BlockInv t)
    ?wait ?ended ?refused ?moved
  case wait =>
    rintro s h hs _ ⟨⟩
    exact hs.blockInv (stepOfPhase_wait_iff.1 h)
  case ended =>
    rintro s _ h hs _ ⟨⟩
    rcases stepOfPhase_ended h with ⟨hp, rfl⟩ | ⟨-, rfl⟩
    · have hc : s.count = 0 := hs.early_count (by simp [hp, Phase.code])
      exact blockInv_terminate (.inr (.inl ⟨rfl, rfl, hc⟩)) hs.source
    · exact blockInv_terminate (.inl ⟨rfl, rfl⟩) hs.source
  case refused =>
    rintro s r - - _ ⟨⟩
  case moved =>
    intro s t h ih hs
    exact advance_of_moved h ▸ ih (hs.moved h)

/-- Append within the capacity keeps the invariant of a running scan (R51). -/
theorem ScanInv.feed {s : State} {c : List Byte} (hs : ScanInv s)
    (hc : fitsCap s.params (s.buf.length + c.length) = true) : ScanInv (feed c s) where
  running := hs.running
  noResult := hs.noResult
  noStop := hs.noStop
  early_count := hs.early_count
  start_pos := hs.start_pos
  chmode := by
    intro hp
    obtain ⟨h4, hv, hm⟩ := hs.chmode hp
    rw [feed_buf, feed_firstChmode, headerOf_append h4, List.length_append]
    exact ⟨by omega, hv, hm⟩
  capacity := by simpa [Memory.wf] using hc
  source := hs.source

/-- An event that does nothing after the end of a scan keeps the invariant, if it does so in a running scan
(R185). -/
theorem blockInv_of_unlessEnded {act : State → Res State} {s t : State} (hs : BlockInv s)
    (hact : ScanInv s → act s = .next t → BlockInv t) (h : unlessEnded act s = .next t) : BlockInv t := by
  unfold unlessEnded at h
  cases hr : s.phase.isTerminal
  case true =>
    rw [hr] at h
    cases h
    exact hs
  case false =>
    rw [hr] at h
    exact hact (hs.scanInv hr) h

/-- Every event of the source keeps the invariant (R180 to R190). -/
theorem blockInv_of_exec_event {i : Instr} {s t : State} (hi : i.isEvent = true) (hs : BlockInv s)
    (h : exec i s = .next t) : BlockInv t := by
  cases i with
  | reset =>
    cases h
    exact blockInv_of_start rfl rfl rfl rfl rfl rfl hs.source
  | push c =>
    rw [exec, execPush] at h
    refine blockInv_of_unlessEnded hs (fun hscan ha => ?_) h
    obtain ⟨u, hu, ha⟩ := andThen_eq_next.1 ha
    obtain ⟨hc, rfl⟩ := append_eq_next.1 hu
    exact blockInv_of_advance _ (hscan.feed hc) _ ha
  | eos =>
    rw [exec, execEos] at h
    refine blockInv_of_unlessEnded hs (fun hscan ha => ?_) h
    cases ha
    exact blockInv_terminate (.inl ⟨rfl, rfl⟩) hscan.source
  | srcerr e =>
    rw [exec, execSrcerr] at h
    refine blockInv_of_unlessEnded hs (fun hscan ha => ?_) h
    cases ha
    exact blockInv_terminate (.inr (.inr ⟨rfl, e, rfl⟩)) hscan.source
  | beatReserved =>
    cases h
    exact hs
  | _ => cases hi

/-! ## The step -/

/-- Everything a step that answers next can have done: nothing, with nothing offered; taken a cycle without a
beat; or taken an operation and run it (R12, R190, R215). -/
theorem step_eq_next {s t : State} (h : step s = .next t) :
    (s.inbox = [] ∧ t = s) ∨
    ∃ c rest, s.inbox = c :: rest ∧
      ((decode c = .rejected .idleCycle ∧ t = { s with inbox := rest, freeCtr := s.freeCtr + 1 }) ∨
        ∃ i, decode c = .instr i ∧ exec i { s with inbox := rest, freeCtr := s.freeCtr + 1 } = .next t) := by
  cases hb : s.inbox with
  | nil =>
    rw [step_of_nothing_offered hb] at h
    cases h
    exact .inl ⟨rfl, rfl⟩
  | cons c rest =>
    refine .inr ⟨c, rest, rfl, ?_⟩
    cases hd : decode c with
    | instr i => exact .inr ⟨i, rfl, step_of_decoded hb hd ▸ h⟩
    | rejected r =>
      by_cases hr : r = .idleCycle
      · subst hr
        simp only [step, fetch_cons hb, hd] at h
        cases h
        exact .inl ⟨rfl, rfl⟩
      · rw [step_of_rejected hb hd hr] at h
        cases h

/-- What the source can offer decodes to an event, or to none (R180, R190). -/
theorem isEvent_of_decode {c : Code} {i : Instr} (hc : c.isHostInput = true) (h : decode c = .instr i) :
    i.isEvent = true := by
  cases c with
  | cycle p =>
    simp only [decode, decodeCycle] at h
    (repeat' split at h) <;> cases h <;> rfl
  | chunk c =>
    cases h
    rfl
  | unit f bytes => cases hc
  | block b w e => cases hc

/-- The invariant does not see an offer being taken (log 1). -/
theorem BlockInv.take {s : State} {c : Code} {rest : List Code} (h : BlockInv s) (hb : s.inbox = c :: rest)
    (n : Nat) : BlockInv { s with inbox := rest, freeCtr := n } :=
  { h with source := fun d hd => h.source d (hb ▸ List.mem_cons_of_mem c hd) }

/-- Settles O43: a step runs at most one event, and every event keeps the invariant. -/
theorem stepKeepsInvariant : Obligations.StepKeepsInvariant := by
  intro s t hs h
  obtain ⟨-, rfl⟩ | ⟨c, rest, hb, ⟨-, rfl⟩ | ⟨i, hd, hx⟩⟩ := step_eq_next h
  · exact hs
  · exact hs.take hb _
  · have hi := isEvent_of_decode (hs.source c (by simp [hb])) hd
    exact blockInv_of_exec_event hi (hs.take hb _) hx

/-- Settles O42: the reset state has the values a scan starts from. -/
theorem resetStateMeetsInvariant : Obligations.ResetStateMeetsInvariant :=
  blockInv_of_start rfl rfl rfl rfl rfl rfl (by simp [State.reset])

/-- Settles O41: the values are those of R34, and the empty buffer is below the 10 bytes of R152. -/
theorem resetStateValues : Obligations.ResetStateValues :=
  ⟨rfl, rfl, rfl, rfl, rfl, rfl, by decide⟩

/-! ## The outputs -/

/-- Settles O50: each output is a function of the phase or of the outcome, which the invariant ties together. -/
theorem outputsShowTheOutcomeOnlyAtTheEnd : Obligations.OutputsShowTheOutcomeOnlyAtTheEnd := by
  intro s hs
  refine ⟨fun hr => ?_, fun hp => ?_, fun hp => ?_⟩
  · have ho := hs.noResult_iff.2 hr
    simp [outputs, hr, ho, hs.stop_eq, ScanResult.kindCode]
  · have ho := hs.done_iff.1 hp
    simp [outputs, hp, ho, hs.stop_eq, ScanResult.kindCode, Phase.isTerminal]
  · obtain ho | ⟨e, ho⟩ := hs.failed_iff.1 hp
    · simp [outputs, hp, ho, hs.stop_eq, ScanResult.kindCode, Phase.isTerminal]
    · simp [outputs, outErr, hp, ho, hs.stop_eq, ScanResult.kindCode, Phase.isTerminal]

end Sys2Proof.Machine
end

section
/-! PROOF. What the operations do not read: a relation between states that agree in all that the operations read,
and that every write keeps, is kept by every operation but RESET (`Unread.exec`). Its two uses are another value
of `first_chmode` (R24) and other values of the model's own fields (logs 1, 2, 4). -/

namespace Sys2Proof.Machine

/-! ## Related answers -/

/-- Both answers are next, with related values, or both are the same stop. -/
inductive RelRes {α β : Type} (R : α → β → Prop) : Res α → Res β → Prop
  | next {a : α} {b : β} (h : R a b) : RelRes R (.next a) (.next b)
  | refused (r : Refusal) : RelRes R (.refused r) (.refused r)
  | fault (f : Fault) : RelRes R (.fault f) (.fault f)

/-- Both results of a step are of one kind, with related states. -/
inductive RelStep (R : State → State → Prop) : StepOut → StepOut → Prop
  | moved {s s' : State} (h : R s s') : RelStep R (.moved s) (.moved s')
  | wait : RelStep R .wait .wait
  | ended {s s' : State} (h : R s s') : RelStep R (.ended s) (.ended s')

/-- Related answers, run on by functions that keep the relation, give related answers. -/
theorem RelRes.andThen {α β γ δ : Type} {R : α → β → Prop} {S : γ → δ → Prop} {r : Res α} {r' : Res β}
    {f : α → Res γ} {f' : β → Res δ} (h : RelRes R r r') (hf : ∀ a b, R a b → RelRes S (f a) (f' b)) :
    RelRes S (andThen r f) (andThen r' f') := by
  cases h with
  | next h => exact hf _ _ h
  | refused r => exact .refused r
  | fault f => exact .fault f

theorem RelRes.ite {α β : Type} {R : α → β → Prop} {c : Prop} [Decidable c] {a b : Res α} {a' b' : Res β}
    (ha : RelRes R a a') (hb : RelRes R b b') :
    RelRes R (if c then a else b) (if c then a' else b') := by
  split
  · exact ha
  · exact hb

/-! ## Relations the operations cannot see -/

/-- A write of the block takes related states to related states. -/
def Keeps (R : State → State → Prop) (f : State → State) : Prop := ∀ s s', R s s' → R (f s) (f s')

/-- A relation between states that agree in every field an operation but RESET reads (`first_chmode` is read in
one phase only), and that every write of the block keeps. -/
structure Unread (R : State → State → Prop) : Prop where
  phase_eq : ∀ {s s'}, R s s' → s'.phase = s.phase
  buf_eq : ∀ {s s'}, R s s' → s'.buf = s.buf
  count_eq : ∀ {s s'}, R s s' → s'.count = s.count
  params_eq : ∀ {s s'}, R s s' → s'.params = s.params
  chmode_eq : ∀ {s s'}, R s s' → s.phase = .awaitingVbrDecision → s'.firstChmode = s.firstChmode
  /-- Append (R51). -/
  feed : ∀ c, Keeps R (feed c)
  /-- Consume (R53). -/
  consume : ∀ n, Keeps R fun s => { s with buf := s.buf.drop n, pos := s.pos + n }
  /-- A transition that is not into AwaitingVBRDecision (R156). -/
  move : ∀ p, p ≠ .awaitingVbrDecision → Keeps R fun s => { s with phase := p }
  /-- The transition into AwaitingVBRDecision (R153). -/
  accept : ∀ h, Keeps R (acceptFirst h)
  /-- A frame counted (R155). -/
  count : Keeps R fun s => { s with count := s.count + 1 }
  /-- TERMINATE (R205). -/
  terminate : ∀ p o, p ≠ .awaitingVbrDecision → Keeps R (terminate p o)
  /-- A result recorded (log 2). -/
  record : ∀ r, Keeps R (withResult r)

section
variable {R : State → State → Prop} (hR : Unread R) {s s' : State} (h : R s s')
include hR h

/-! ## The steps -/

theorem Unread.endWithCount : R (endWithCount s) (endWithCount s') := by
  rw [Machine.endWithCount, Machine.endWithCount, hR.count_eq h]
  exact hR.terminate .done (.count s.count) (by decide) _ _ h

/-- Consume and move on, as one write. -/
theorem Unread.consume_move (n : Nat) {p : Phase} (hp : p ≠ .awaitingVbrDecision) :
    R { s with buf := s.buf.drop n, pos := s.pos + n, phase := p }
      { s' with buf := s'.buf.drop n, pos := s'.pos + n, phase := p } :=
  hR.move p hp _ _ (hR.consume n _ _ h)

theorem Unread.stepId3 : RelRes (RelStep R) (stepId3 s) (stepId3 s') := by
  have hb := hR.buf_eq h
  have hmove := hR.move .awaitingFirstFrameHeader (by decide) _ _ h
  have htag := hR.consume_move h (tagskip (bytesAt s.buf 6)) (p := .awaitingFirstFrameHeader) (by decide)
  simp only [stepId3_eq, hb] at hmove htag ⊢
  exact .ite (.next .wait) (.ite (.ite (.next .wait) (.next (.moved htag))) (.next (.moved hmove)))

theorem Unread.stepFirst : RelRes (RelStep R) (stepFirst s) (stepFirst s') := by
  rw [stepFirst_eq, stepFirst_eq, hR.buf_eq h]
  exact .ite (.next .wait) (.ite (.next (.moved (hR.accept _ _ _ h)))
    (.next (.ended (hR.terminate .failed .formatError (by decide) _ _ h))))

theorem Unread.skipMarker (w : Word) : RelRes (RelStep R) (skipMarker w s) (skipMarker w s') := by
  rw [skipMarker_eq, skipMarker_eq]
  cases framelenOf w with
  | invalid => exact .next (.moved (hR.move .scanningFrames (by decide) _ _ h))
  | bytes l =>
    have hb := hR.buf_eq h
    have hskip := hR.consume_move h l (p := .scanningFrames) (by decide)
    simp only [hb] at hskip ⊢
    exact .ite (.next .wait) (.next (.moved hskip))

theorem Unread.stepVbr (hp : s.phase = .awaitingVbrDecision) :
    RelRes (RelStep R) (stepVbr s) (stepVbr s') := by
  have hb := hR.buf_eq h
  have hcm := hR.chmode_eq h hp
  have hmove := hR.move .scanningFrames (by decide) _ _ h
  simp only [stepVbr_eq, hb, hcm] at hmove ⊢
  exact .ite (.next .wait) (.ite (hR.skipMarker h _) (.next (.moved hmove)))

theorem Unread.scanFrame (w : Word) : RelRes (RelStep R) (scanFrame w s) (scanFrame w s') := by
  rw [scanFrame_eq, scanFrame_eq]
  cases framelenOf w with
  | invalid => exact .next (.ended (hR.endWithCount h))
  | bytes l =>
    have hb := hR.buf_eq h
    have hc := hR.count_eq h
    have hcount := hR.count _ _ (hR.consume l _ _ h)
    simp only [hb, hc] at hcount ⊢
    exact .ite (.next .wait) (.ite (.refused _) (.next (.moved hcount)))

theorem Unread.stepScan : RelRes (RelStep R) (stepScan s) (stepScan s') := by
  rw [stepScan_eq, stepScan_eq, hR.buf_eq h]
  exact .ite (.next .wait) (.ite (hR.scanFrame h _) (.next (.ended (hR.endWithCount h))))

theorem Unread.stepOfPhase : RelRes (RelStep R) (stepOfPhase s) (stepOfPhase s') := by
  unfold Machine.stepOfPhase
  rw [hR.phase_eq h]
  cases hp : s.phase with
  | awaitingId3 => exact hR.stepId3 h
  | awaitingFirstFrameHeader => exact hR.stepFirst h
  | awaitingVbrDecision => exact hR.stepVbr h hp
  | scanningFrames => exact hR.stepScan h
  | done => exact .next .wait
  | failed => exact .next .wait

/-! ## ADVANCE and a step run by itself -/

omit h in
theorem Unread.advanceLoop (n : Nat) : ∀ s s', R s s' → RelRes R (advanceLoop n s) (advanceLoop n s') := by
  induction n with
  | zero => exact fun _ _ _ => .fault _
  | succ n ih =>
    intro s s' h
    rw [advanceLoop_succ, advanceLoop_succ]
    refine (hR.stepOfPhase h).andThen fun o o' ho => ?_
    cases ho with
    | moved ht => exact ih _ _ ht
    | wait => exact .next h
    | ended ht => exact .next ht

theorem Unread.advance : RelRes R (advance s) (advance s') := by
  unfold Machine.advance advanceBound
  rw [hR.buf_eq h]
  exact hR.advanceLoop _ _ _ h

theorem Unread.runAlone {r r' : Res StepOut} (hr : RelRes (RelStep R) r r') :
    RelRes R (runAlone r s) (runAlone r' s') := by
  refine hr.andThen fun o o' ho => .next ?_
  cases ho with
  | moved ht => exact hR.record (.stepped .moved) _ _ ht
  | wait => exact hR.record (.stepped .wait) _ _ h
  | ended ht => exact hR.record (.stepped .ended) _ _ ht

theorem Unread.runPhaseStep : RelRes R (runPhaseStep s) (runPhaseStep s') := by
  unfold Machine.runPhaseStep
  rw [hR.phase_eq h]
  exact .ite (.next h) (hR.runAlone h (hR.stepOfPhase h))

/-- A step run by itself is the step of its phase there, and refused elsewhere. -/
theorem Unread.runInPhase {p : Phase} {f : State → Res StepOut}
    (hf : s.phase = p → RelRes (RelStep R) (f s) (f s')) :
    RelRes R (runInPhase p f s) (runInPhase p f s') := by
  unfold Machine.runInPhase
  rw [hR.phase_eq h]
  split
  · exact hR.runAlone h (hf ‹_›)
  · exact .refused _

/-! ## The operations -/

theorem Unread.execTerminate (p : EndPhase) (o : EndOutcome) :
    RelRes R (execTerminate p o s) (execTerminate p o s') := by
  have ho : endResult o s' = endResult o s := by
    cases o with
    | count => exact congrArg ScanResult.count (hR.count_eq h)
    | formatError => rfl
    | ioFailure e => rfl
  unfold Machine.execTerminate
  rw [hR.phase_eq h, ho]
  exact .ite (.refused _) (.next (hR.terminate _ _ (by cases p <;> decide) _ _ h))

theorem Unread.append (c : List Byte) : RelRes R (append c s) (append c s') := by
  have hb := hR.buf_eq h
  have hfeed := hR.feed c _ _ h
  simp only [Machine.append, Machine.feed, hR.params_eq h, hb] at hfeed ⊢
  exact .ite (.next hfeed) (.refused _)

theorem Unread.unlessEnded {act : State → Res State} (hact : RelRes R (act s) (act s')) :
    RelRes R (unlessEnded act s) (unlessEnded act s') := by
  unfold Machine.unlessEnded
  rw [hR.phase_eq h]
  exact .ite (.next h) hact

/-- Every operation but RESET takes related states to related states, or stops alike. -/
theorem Unread.exec {i : Instr} (hi : i ≠ .reset) : RelRes R (exec i s) (exec i s') := by
  have hunit (hu : isStreamUnit i = true) : RelRes R (Machine.exec i s) (Machine.exec i s') := by
    rw [exec_of_isStreamUnit hu, exec_of_isStreamUnit hu]
    exact hR.runPhaseStep h
  cases i with
  | reset => exact absurd rfl hi
  | hdrValid _ | hdrInvalidFirst _ | hdrInvalidLater _ | hdrLenReservedBr0 _ | hdrLenReservedBr15 _
  | hdrLenReservedSr3 _ | id3Magic _ _ _ | vbrXing | vbrInfo => exact hunit rfl
  | syncsafe _ | hdrdec _ | hdrIsValid _ | framelen _ _ _ | vbroff _ | tagskip _ | bitrate _
  | samplerate _ => exact .next (hR.record _ _ _ h)
  | advance => exact hR.advance h
  | stepId3 => exact hR.runInPhase h fun _ => hR.stepId3 h
  | stepFirst => exact hR.runInPhase h fun _ => hR.stepFirst h
  | stepVbr => exact hR.runInPhase h (hR.stepVbr h)
  | stepScan => exact hR.runInPhase h fun _ => hR.stepScan h
  | terminate p o => exact hR.execTerminate h p o
  | push c =>
    simp only [Machine.exec, execPush]
    refine hR.unlessEnded h ?_
    exact (hR.append h c).andThen fun _ _ => hR.advance
  | eos =>
    simp only [Machine.exec, execEos]
    refine hR.unlessEnded h ?_
    exact .next (hR.endWithCount h)
  | srcerr e =>
    simp only [Machine.exec, execSrcerr]
    refine hR.unlessEnded h ?_
    exact .next (hR.terminate .failed (.ioFailure e) (by decide) _ _ h)
  | beatReserved => exact .next h

end

/-! ## The channel mode -/

/-- The same state, or outside AwaitingVBRDecision the state with the value `cm` in `first_chmode`. -/
def SameButChmode (cm : BitVec 2) (s s' : State) : Prop :=
  s' = s ∨ (s.phase ≠ .awaitingVbrDecision ∧ s' = withChmode cm s)

/-- A write that leaves `first_chmode` alone, and is no transition into AwaitingVBRDecision. -/
theorem keeps_sameButChmode {cm : BitVec 2} {f : State → State}
    (hf : ∀ s, f (withChmode cm s) = withChmode cm (f s))
    (hp : ∀ s, s.phase ≠ .awaitingVbrDecision → (f s).phase ≠ .awaitingVbrDecision) :
    Keeps (SameButChmode cm) f := by
  rintro s _ (rfl | ⟨hs, rfl⟩)
  · exact .inl rfl
  · exact .inr ⟨hp s hs, hf s⟩

theorem unread_sameButChmode (cm : BitVec 2) : Unread (SameButChmode cm) where
  phase_eq := by rintro s _ (rfl | ⟨-, rfl⟩) <;> rfl
  buf_eq := by rintro s _ (rfl | ⟨-, rfl⟩) <;> rfl
  count_eq := by rintro s _ (rfl | ⟨-, rfl⟩) <;> rfl
  params_eq := by rintro s _ (rfl | ⟨-, rfl⟩) <;> rfl
  chmode_eq := by
    rintro s _ (rfl | ⟨hs, -⟩) hp
    · rfl
    · exact absurd hp hs
  feed _ := keeps_sameButChmode (fun _ => rfl) fun _ hs => hs
  consume _ := keeps_sameButChmode (fun _ => rfl) fun _ hs => hs
  move _ hp := keeps_sameButChmode (fun _ => rfl) fun _ _ => hp
  accept w := by
    rintro s _ (rfl | ⟨-, rfl⟩)
    · exact .inl rfl
    · exact .inl rfl
  count := keeps_sameButChmode (fun _ => rfl) fun _ hs => hs
  terminate _ _ hp := keeps_sameButChmode (fun _ => rfl) fun _ _ => hp
  record _ := keeps_sameButChmode (fun _ => rfl) fun _ hs => hs

/-- Settles O52: `SameButChmode` is kept by every operation but RESET, which does not read the field at all. -/
theorem channelModeReadOnlyInTheVbrPhase : Obligations.ChannelModeReadOnlyInTheVbrPhase := by
  intro i s cm hp
  by_cases hi : i = .reset
  · subst hi
    exact .inl rfl
  have h := (unread_sameButChmode cm).exec (.inr ⟨hp, rfl⟩ : SameButChmode cm s (withChmode cm s)) hi
  generalize exec i s = r, exec i (withChmode cm s) = r' at h
  cases h with
  | @next t t' ht =>
    rcases ht with rfl | ⟨-, rfl⟩
    · exact .inl rfl
    · exact .inr ⟨t, rfl, rfl⟩
  | refused _ => exact .inl rfl
  | fault _ => exact .inl rfl

/-! ## The model's own fields -/

/-- Equal but for the model's own fields (logs 1, 2, 4). -/
def SameBlock (s s' : State) : Prop := blockState s = blockState s'

/-- A write whose effect on the block does not depend on the model's own fields. -/
theorem keeps_sameBlock {f : State → State}
    (hf : ∀ s, blockState (f s) = blockState (f (blockState s))) : Keeps SameBlock f := by
  intro s s' h
  calc blockState (f s)
      = blockState (f (blockState s)) := hf s
    _ = blockState (f (blockState s')) := by rw [h]
    _ = blockState (f s') := (hf s').symm

theorem unread_sameBlock : Unread SameBlock where
  phase_eq h := (congrArg State.phase h :).symm
  buf_eq h := (congrArg State.buf h :).symm
  count_eq h := (congrArg State.count h :).symm
  params_eq h := (congrArg State.params h :).symm
  chmode_eq h _ := (congrArg State.firstChmode h :).symm
  feed _ := keeps_sameBlock fun _ => rfl
  consume _ := keeps_sameBlock fun _ => rfl
  move _ _ := keeps_sameBlock fun _ => rfl
  accept _ := keeps_sameBlock fun _ => rfl
  count := keeps_sameBlock fun _ => rfl
  terminate _ _ _ := keeps_sameBlock fun _ => rfl
  record _ := keeps_sameBlock fun _ => rfl

/-- Settles O53: `SameBlock` is kept by every operation but RESET. -/
theorem modelFieldsDoNotReachTheBlock : Obligations.ModelFieldsDoNotReachTheBlock := by
  intro i s t hi hst
  have h := unread_sameBlock.exec (hst : SameBlock s t) hi
  generalize exec i s = r, exec i t = r' at h ⊢
  cases h with
  | next h => exact h
  | refused _ => rfl
  | fault _ => rfl

end Sys2Proof.Machine
end

section
/-! PROOF. Byte order (R55): BE32 is its four bytes side by side, the first of them the most significant. -/

namespace Sys2Proof.Machine

/-- BE32 sets the four bytes side by side, with no bit shared (R55). -/
theorem be32_eq_append (b : Bytes4) : be32 b = b.b0 ++ b.b1 ++ b.b2 ++ b.b3 := by
  ext i hi
  simp only [be32, BitVec.getElem_or, BitVec.getElem_shiftLeft, BitVec.getElem_setWidth]
  grind

theorem toNat_append_eq_add {m n : Nat} (x : BitVec m) (y : BitVec n) :
    (x ++ y).toNat = x.toNat * 2 ^ n + y.toNat := by
  rw [BitVec.toNat_append, ← Nat.shiftLeft_add_eq_or_of_lt y.isLt, Nat.shiftLeft_eq]

theorem be32_toNat (b : Bytes4) :
    (be32 b).toNat = b.b0.toNat * 2 ^ 24 + b.b1.toNat * 2 ^ 16 + b.b2.toNat * 2 ^ 8 + b.b3.toNat := by
  simp only [be32_eq_append, toNat_append_eq_add]
  omega

/-- The top 8 of the 11 sync bits are the top byte of the header (R81). -/
theorem hdrSync_top (h : Word) : (hdrSync h).extractLsb' 3 8 = h.extractLsb' 24 8 := by
  ext i hi
  simp [hdrSync, show 3 + i < 11 by omega, show 21 + (3 + i) = 24 + i by omega]

/-- The channel mode is the top two bits of the last byte (R81). -/
theorem hdrChannelMode_eq (h : Word) : hdrChannelMode h = (h.extractLsb' 0 8).extractLsb' 6 2 :=
  (BitVec.extractLsb'_extractLsb'_of_le (by decide)).symm

/-- Settles O5: the number is that of the four bytes side by side, and the fields are those of the bytes that
`wordBytes` gives back. -/
theorem headerBytesAreBigEndian : Obligations.HeaderBytesAreBigEndian := by
  intro b
  have h0 : (be32 b).extractLsb' 24 8 = b.b0 := congrArg Bytes4.b0 (wordBytes_be32 b)
  have h3 : (be32 b).extractLsb' 0 8 = b.b3 := congrArg Bytes4.b3 (wordBytes_be32 b)
  exact ⟨be32_toNat b, h0, h3, (hdrSync_top _).trans h0, by rw [hdrChannelMode_eq, h3]⟩

end Sys2Proof.Machine
end

section
/-! PROOF. No operation faults (R52, R53, R157): every operation is a step, ADVANCE's loop of steps, or reads
nothing of the buffer. -/

namespace Sys2Proof.Machine

/-! ## The four steps as operations -/

theorem runInPhase_eq {p : Phase} {f : State → Res StepOut}
    (hf : ∀ {s : State}, s.phase = p → stepOfPhase s = f s) (s : State) :
    runInPhase p f s =
      if s.phase = p then runAlone (stepOfPhase s) s else .refused .stepNotSelected := by
  unfold runInPhase
  split
  · rw [hf ‹_›]
  · rfl

/-- A step run by itself is the step of the phase in the one phase that selects it, and refused elsewhere (R150,
log 11). -/
theorem exec_of_isStep {i : Instr} (hi : i = .stepId3 ∨ i = .stepFirst ∨ i = .stepVbr ∨ i = .stepScan) :
    ∃ p, ∀ s, exec i s =
      if s.phase = p then runAlone (stepOfPhase s) s else .refused .stepNotSelected := by
  rcases hi with rfl | rfl | rfl | rfl
  · exact ⟨_, runInPhase_eq stepOfPhase_awaitingId3⟩
  · exact ⟨_, runInPhase_eq stepOfPhase_awaitingFirstFrameHeader⟩
  · exact ⟨_, runInPhase_eq stepOfPhase_awaitingVbrDecision⟩
  · exact ⟨_, runInPhase_eq stepOfPhase_scanningFrames⟩

/-! ## The parts an operation is made of -/

/-- The step of the phase, run by itself, does not fault. -/
theorem runAlone_stepOfPhase_ne_fault (s : State) (f : Fault) :
    runAlone (stepOfPhase s) s ≠ .fault f := by
  intro h
  rcases andThen_eq_fault.1 h with h | ⟨o, -, h⟩
  · exact stepOfPhase_ne_fault s f h
  · cases h

theorem runPhaseStep_ne_fault (s : State) (f : Fault) : runPhaseStep s ≠ .fault f := by
  unfold runPhaseStep
  split
  · nofun
  · exact runAlone_stepOfPhase_ne_fault s f

theorem exec_step_ne_fault {i : Instr}
    (hi : i = .stepId3 ∨ i = .stepFirst ∨ i = .stepVbr ∨ i = .stepScan) (s : State) (f : Fault) :
    exec i s ≠ .fault f := by
  obtain ⟨p, hx⟩ := exec_of_isStep hi
  rw [hx]
  split
  · exact runAlone_stepOfPhase_ne_fault s f
  · nofun

/-- ADVANCE ends, and no step of it faults (R157). -/
theorem advance_ne_fault (f : Fault) : ∀ s, advance s ≠ .fault f :=
  advance_induction (P := fun _ r => r ≠ .fault f) (wait := fun _ _ => nofun)
    (ended := fun _ _ _ => nofun) (refused := fun _ _ _ => nofun) (moved := fun _ _ _ ht => ht)

theorem append_ne_fault (c : List Byte) (s : State) (f : Fault) : append c s ≠ .fault f := by
  unfold append
  split
  · nofun
  · nofun

theorem unlessEnded_ne_fault {act : State → Res State} {s : State} {f : Fault} (h : act s ≠ .fault f) :
    unlessEnded act s ≠ .fault f := by
  unfold unlessEnded
  split
  · nofun
  · exact h

theorem execPush_ne_fault (c : List Byte) (s : State) (f : Fault) : execPush c s ≠ .fault f := by
  refine unlessEnded_ne_fault fun h => ?_
  rcases andThen_eq_fault.1 h with h | ⟨t, -, h⟩
  · exact append_ne_fault c s f h
  · exact advance_ne_fault f t h

theorem execTerminate_ne_fault (p : EndPhase) (o : EndOutcome) (s : State) (f : Fault) :
    execTerminate p o s ≠ .fault f := by
  unfold execTerminate
  split
  · nofun
  · nofun

/-! ## All operations, and the step of the machine -/

theorem exec_ne_fault (i : Instr) (s : State) (f : Fault) : exec i s ≠ .fault f := by
  have hunit (hu : isStreamUnit i = true) : exec i s ≠ .fault f := by
    rw [exec_of_isStreamUnit hu]
    exact runPhaseStep_ne_fault s f
  cases i with
  | hdrValid _ | hdrInvalidFirst _ | hdrInvalidLater _ | hdrLenReservedBr0 _ | hdrLenReservedBr15 _
  | hdrLenReservedSr3 _ | id3Magic _ _ _ | vbrXing | vbrInfo => exact hunit rfl
  | syncsafe _ | hdrdec _ | hdrIsValid _ | framelen _ _ _ | vbroff _ | tagskip _ | bitrate _
  | samplerate _ | reset | beatReserved => nofun
  | advance => exact advance_ne_fault f s
  | stepId3 | stepFirst | stepVbr | stepScan => exact exec_step_ne_fault (by simp) s f
  | terminate p o => exact execTerminate_ne_fault p o s f
  | push c => exact execPush_ne_fault c s f
  | eos => exact unlessEnded_ne_fault (act := fun s => .next (endWithCount s)) nofun
  | srcerr e => exact unlessEnded_ne_fault (act := fun s => .next (endWithIoFailure e s)) nofun

/-- A port cycle without a beat is taken and nothing is run (R190). -/
theorem step_of_idleCycle {s : State} {c : Code} {rest : List Code} (h : s.inbox = c :: rest)
    (hd : decode c = .rejected .idleCycle) :
    step s = .next { s with inbox := rest, freeCtr := s.freeCtr + 1 } := by
  simp only [step, fetch_cons h, hd]

theorem step_ne_fault (s : State) (f : Fault) : step s ≠ .fault f := by
  cases hb : s.inbox with
  | nil =>
    rw [step_of_nothing_offered hb]
    nofun
  | cons c rest =>
    cases hd : decode c with
    | instr i =>
      rw [step_of_decoded hb hd]
      exact exec_ne_fault i _ f
    | rejected r =>
      by_cases hr : r = .idleCycle
      · subst hr
        rw [step_of_idleCycle hb hd]
        nofun
      · rw [step_of_rejected hb hd hr]
        nofun

/-- Settles O39: operation by operation, then by what a step of the machine does with an offer. -/
theorem noOperationFaults : Obligations.NoOperationFaults := ⟨exec_ne_fault, step_ne_fault⟩

end Sys2Proof.Machine
end

section
/-! PROOF. The buffer along PUSH and ADVANCE (R51, R53, R54, R62): what the loop of ADVANCE keeps, by induction
along it, and Append before it. -/

namespace Sys2Proof.Machine

/-! ## PUSH as Append and ADVANCE -/

@[simp] theorem feed_pos (c : List Byte) (s : State) : (feed c s).pos = s.pos := rfl

/-- PUSH in a running scan is Append and ADVANCE (R182). -/
theorem exec_push_eq {s : State} (c : List Byte) (hr : s.phase.isTerminal = false) :
    exec (.push c) s = andThen (append c s) advance := if_neg (by simp [hr])

/-- PUSH that answers next was within the capacity, and is ADVANCE with the chunk behind the buffer. -/
theorem exec_push_eq_next {c : List Byte} {s t : State} (hr : s.phase.isTerminal = false) :
    exec (.push c) s = .next t ↔
      fitsCap s.params (s.buf.length + c.length) = true ∧ advance (feed c s) = .next t := by
  rw [exec_push_eq c hr, andThen_eq_next]
  constructor
  · rintro ⟨u, hu, ha⟩
    obtain ⟨hc, rfl⟩ := append_eq_next.1 hu
    exact ⟨hc, ha⟩
  · rintro ⟨hc, ha⟩
    exact ⟨feed c s, append_eq_next.2 ⟨hc, rfl⟩, ha⟩

theorem fitsCap_eq_false {p : Config.Params} {n : Nat} :
    fitsCap p n = false ↔ ∃ cap, p.bufCap = some cap ∧ cap < n := by
  unfold fitsCap
  cases p.bufCap <;> simp

/-- Append is refused for one reason only: the capacity (R51, R63). -/
theorem append_eq_refused {c : List Byte} {s : State} {r : Refusal} :
    append c s = .refused r ↔
      r = .bufCapExceeded ∧ ∃ cap, s.params.bufCap = some cap ∧ cap < s.buf.length + c.length := by
  rw [← fitsCap_eq_false, append]
  cases fitsCap s.params (s.buf.length + c.length) <;> simp [eq_comm]

/-! ## Refusals (R23, R51) -/

/-- A step that moved keeps the bound of R23. -/
theorem countBound_moved {s t : State} (h : stepOfPhase s = .next (.moved t))
    (hb : s.count.toNat + s.buf.length / 96 < 2 ^ 32) :
    t.count.toNat + t.buf.length / 96 < 2 ^ 32 := by
  obtain ⟨n, ph, cm, ct, hn, rfl, -, -, -, hm⟩ := stepOfPhase_moved h
  rcases hm with ⟨-, rfl⟩ | ⟨-, -, h96, -, rfl⟩
  · simp only [List.length_drop]
    omega
  · exact countBound_of_frame h96 hn hb

/-- ADVANCE is refused for one reason only: more frames than the count can hold (R23). -/
theorem advance_refused : ∀ (s : State) (r : Refusal), advance s = .refused r →
    r = .countOverflow ∧ 2 ^ 32 ≤ s.count.toNat + s.buf.length / 96 := by
  refine advance_induction (P := fun s a => ∀ r, a = .refused r →
    r = .countOverflow ∧ 2 ^ 32 ≤ s.count.toNat + s.buf.length / 96) ?wait ?ended ?refused ?moved
  case wait =>
    rintro s - r ⟨⟩
  case ended =>
    rintro s t - r ⟨⟩
  case refused =>
    rintro s r h _ ⟨⟩
    obtain ⟨hr, hc, -, h96⟩ := stepOfPhase_refused h
    rw [hc, show (0xFFFFFFFF#32).toNat = 2 ^ 32 - 1 from rfl]
    exact ⟨hr, by omega⟩
  case moved =>
    intro s t h ih r ha
    obtain ⟨hr, hb⟩ := ih r ha
    exact ⟨hr, Nat.le_of_not_lt fun hlt => Nat.not_lt_of_le hb (countBound_moved h hlt)⟩

/-- PUSH is refused only in a running scan, past the capacity or past the last count. -/
theorem exec_push_refused {c : List Byte} {s : State} {r : Refusal} (h : exec (.push c) s = .refused r) :
    s.phase.isTerminal = false ∧
      ((r = .bufCapExceeded ∧ ∃ cap, s.params.bufCap = some cap ∧ cap < s.buf.length + c.length) ∨
       (r = .countOverflow ∧ 2 ^ 32 ≤ s.count.toNat + (s.buf.length + c.length) / 96)) := by
  cases hr : s.phase.isTerminal with
  | true =>
    rw [exec_push_of_terminal c hr] at h
    cases h
  | false =>
    refine ⟨rfl, ?_⟩
    rw [exec_push_eq c hr] at h
    rcases andThen_eq_refused.1 h with happ | ⟨u, hu, hadv⟩
    · exact .inl (append_eq_refused.1 happ)
    · obtain ⟨-, rfl⟩ := append_eq_next.1 hu
      simpa using Or.inr (advance_refused _ r hadv)

theorem unlessEnded_ne_refused {act : State → Res State} {s : State} {r : Refusal}
    (h : act s ≠ .refused r) : unlessEnded act s ≠ .refused r := by
  unfold unlessEnded
  split
  · nofun
  · exact h

/-- Settles O40: Append refuses past the capacity; and of the events PUSH alone can be refused, by Append or by
ADVANCE. -/
theorem eventsRefusedOnlyForCapacityOrCount : Obligations.EventsRefusedOnlyForCapacityOrCount := by
  refine ⟨fun c s cap hr hcap hlt => ?_, fun i s r hi h => ?_⟩
  · rw [exec_push_eq c hr, append_eq_refused.2 ⟨rfl, cap, hcap, hlt⟩, andThen_refused]
  · cases i with
    | push c => exact ⟨c, rfl, exec_push_refused h⟩
    | reset | beatReserved => cases h
    | eos => exact absurd h (unlessEnded_ne_refused (act := fun s => .next (endWithCount s)) nofun)
    | srcerr e =>
      exact absurd h (unlessEnded_ne_refused (act := fun s => .next (endWithIoFailure e s)) nofun)
    | _ => cases hi

/-! ## The frame of ADVANCE -/

/-- What ADVANCE from the running state `s` leaves as it was in the state `t` it answers, and what it takes from
the front of the buffer (R53, R205, R24). -/
structure AdvanceFrame (s t : State) : Prop where
  inbox : t.inbox = s.inbox
  params : t.params = s.params
  freeCtr : t.freeCtr = s.freeCtr
  opResult : t.opResult = s.opResult
  pos_le : s.pos ≤ t.pos
  taken_le : t.pos ≤ s.pos + s.buf.length
  running : t.phase.isTerminal = false →
    t.outcome = s.outcome ∧ t.stop = s.stop ∧ t.buf = s.buf.drop (t.pos - s.pos)
  ended : t.phase.isTerminal = true →
    t.stop = true ∧ t.buf = [] ∧ (t.outcome = .count t.count ∨ t.outcome = .formatError)
  chmode : t.firstChmode ≠ s.firstChmode → s.phase.code.toNat ≤ 1

theorem AdvanceFrame.refl {s : State} (hr : s.phase.isTerminal = false) : AdvanceFrame s s where
  inbox := rfl
  params := rfl
  freeCtr := rfl
  opResult := rfl
  pos_le := le_rfl
  taken_le := Nat.le_add_right _ _
  running _ := by simp
  ended ht := by simp [hr] at ht
  chmode hc := absurd rfl hc

/-- TERMINATE with one of the outcomes that are not the source's (R200). -/
theorem advanceFrame_terminate {p : Phase} {o : ScanResult} (s : State) (hp : p.isTerminal = true)
    (ho : o = .count s.count ∨ o = .formatError) : AdvanceFrame s (terminate p o s) where
  inbox := rfl
  params := rfl
  freeCtr := rfl
  opResult := rfl
  pos_le := le_rfl
  taken_le := Nat.le_add_right _ _
  running ht := by simp [hp] at ht
  ended _ := ⟨rfl, rfl, ho⟩
  chmode hc := absurd rfl hc

/-- A step that moved, before a frame: the bytes it took are in front of those taken later. -/
theorem AdvanceFrame.of_moved {s t u : State} (h : stepOfPhase s = .next (.moved t))
    (hf : AdvanceFrame t u) : AdvanceFrame s u := by
  obtain ⟨n, ph, cm, ct, hn, rfl, hcm, -, -, hm⟩ := stepOfPhase_moved h
  have hpos : s.pos + n ≤ u.pos := hf.pos_le
  have htaken : u.pos ≤ s.pos + n + (s.buf.drop n).length := hf.taken_le
  constructor
  case inbox => exact hf.inbox
  case params => exact hf.params
  case freeCtr => exact hf.freeCtr
  case opResult => exact hf.opResult
  case pos_le => omega
  case taken_le => rw [List.length_drop] at htaken; omega
  case running =>
    intro hu
    obtain ⟨ho, hs, hb⟩ := hf.running hu
    have hsum : n + (u.pos - (s.pos + n)) = u.pos - s.pos := by omega
    exact ⟨ho, hs, by rw [hb, List.drop_drop, hsum]⟩
  case ended => exact hf.ended
  case chmode =>
    intro hne
    by_cases hc : cm = s.firstChmode
    · have hle : ph.code.toNat ≤ 1 := hf.chmode (hc ▸ hne)
      rcases hm with ⟨hlt, -⟩ | ⟨-, rfl, -⟩
      · omega
      · simp [Phase.code] at hle
    · rw [hcm hc]
      decide

/-- ADVANCE has its frame: by induction along its steps. -/
theorem advanceFrame_of_advance : ∀ s, s.phase.isTerminal = false → ∀ t, advance s = .next t →
    AdvanceFrame s t := by
  refine advance_induction (P := fun s a => s.phase.isTerminal = false → ∀ t, a = .next t →
    AdvanceFrame s t) ?wait ?ended ?refused ?moved
  case wait =>
    rintro s - hr _ ⟨⟩
    exact .refl hr
  case ended =>
    rintro s _ h - _ ⟨⟩
    rcases stepOfPhase_ended h with ⟨-, rfl⟩ | ⟨-, rfl⟩
    · exact advanceFrame_terminate s rfl (.inr rfl)
    · exact advanceFrame_terminate s rfl (.inl rfl)
  case refused =>
    rintro s r - - _ ⟨⟩
  case moved =>
    intro s t h ih _ u hu
    exact .of_moved h (ih (running_and_params_of_moved h).1 u hu)

/-- PUSH has the frame of ADVANCE with the chunk behind the buffer. -/
theorem advanceFrame_of_push {c : List Byte} {s t : State} (hr : s.phase.isTerminal = false)
    (h : exec (.push c) s = .next t) : AdvanceFrame (feed c s) t :=
  advanceFrame_of_advance (feed c s) hr t ((exec_push_eq_next hr).1 h).2

theorem early_of_code_le_one {p : Phase} (h : p.code.toNat ≤ 1) :
    p = .awaitingId3 ∨ p = .awaitingFirstFrameHeader := by
  cases p <;> simp [Phase.code] at h ⊢

/-- Settles O27: ADVANCE is PUSH of nothing, and PUSH is ADVANCE with the chunk behind the buffer. -/
theorem pushAndAdvanceFrame : Obligations.PushAndAdvanceFrame := by
  intro i c s t hi hr h
  have hf : AdvanceFrame (feed c s) t := by
    rcases hi with rfl | ⟨rfl, rfl⟩
    · exact advanceFrame_of_push hr h
    · rw [feed_nil]
      exact advanceFrame_of_advance s hr t h
  exact ⟨hf.inbox, hf.params, hf.freeCtr, hf.opResult, hf.pos_le, hf.running, hf.ended,
    fun hc => early_of_code_le_one (hf.chmode hc)⟩

/-! ## The buffer as the rest of the stream (R54) -/

/-- Settles O48: what PUSH takes is taken from the front of what is left of the longer stream. -/
theorem bufferIsTheUnconsumedSuffix : Obligations.BufferIsTheUnconsumedSuffix := by
  rintro stream c s t hr ⟨hpos, hbuf⟩ h ht
  have hf := advanceFrame_of_push hr h
  obtain ⟨-, -, htbuf⟩ := hf.running ht
  have hrest : (feed c s).buf = (stream ++ c).drop s.pos := by
    rw [feed_buf, hbuf, List.drop_append_of_le_length hpos]
  have hle : s.pos ≤ t.pos := hf.pos_le
  have htaken := hf.taken_le
  rw [hrest, List.length_drop, feed_pos] at htaken
  have hstream : s.pos ≤ (stream ++ c).length := by rw [List.length_append]; omega
  rw [hrest, List.drop_drop, feed_pos, Nat.add_sub_cancel' hle] at htbuf
  exact ⟨by omega, htbuf⟩

/-! ## The thresholds (R62) -/

theorem tagskip_le (b : Bytes4) : tagskip b ≤ 268435465 := by
  have := (syncsafe b).isLt
  unfold tagskip id3HdrBytes
  omega

theorem vbroff_le (cm : BitVec 2) : vbroff cm ≤ 36 := by
  rcases vbroff_pos cm with h | h <;> omega

theorem waitedFor_le (h : Word) : (framelenOf h).waitedFor ≤ 1441 := by
  cases hl : framelenOf h with
  | invalid => exact Nat.zero_le _
  | bytes l => exact (framelenOf_bounds hl).2

theorem threshold_le_thresholdLimit (s : State) : threshold s ≤ thresholdLimit s := by
  have htag := tagskip_le (bytesAt s.buf 6)
  have hoff := vbroff_le s.firstChmode
  have hframe := waitedFor_le (headerOf s.buf)
  unfold threshold thresholdLimit
  cases s.phase <;> simp only
  case awaitingId3 => (repeat' split) <;> omega
  case awaitingFirstFrameHeader => split <;> omega
  case awaitingVbrDecision => (repeat' split) <;> omega
  case scanningFrames => (repeat' split) <;> omega
  case done => rfl
  case failed => rfl

/-- ADVANCE stops in a terminal phase or in a waiting state (R150, R158). -/
theorem settled_of_advance : ∀ s t : State, advance s = .next t → Settled t := by
  refine advance_induction (P := fun _ a => ∀ t, a = .next t → Settled t) ?wait ?ended ?refused ?moved
  case wait =>
    rintro s h _ ⟨⟩
    exact stepOfPhase_wait_iff.1 h
  case ended =>
    rintro s _ h _ ⟨⟩
    exact .inl (isTerminal_of_ended h)
  case refused =>
    rintro s r - _ ⟨⟩
  case moved =>
    intro s t _ ih
    exact ih

/-- PUSH leaves a settled state (R158). -/
theorem settled_of_push {c : List Byte} {s t : State} (h : exec (.push c) s = .next t) : Settled t := by
  cases hr : s.phase.isTerminal with
  | true =>
    rw [exec_push_of_terminal c hr] at h
    cases h
    exact .inl hr
  | false => exact settled_of_advance _ t ((exec_push_eq_next hr).1 h).2

theorem waiting_of_settled {s : State} (h : Settled s) (hr : s.phase.isTerminal = false) : Waiting s :=
  h.resolve_left (by simp [hr])

/-- Settles O49: the bounds of each phase; and a running scan waits, by the invariant and after PUSH. -/
theorem bufferStaysBelowThreshold : Obligations.BufferStaysBelowThreshold := by
  refine ⟨threshold_le_thresholdLimit, fun c s hs hr => ?_, fun c s t h ht => ?_⟩
  · have hw : s.buf.length < threshold s := waiting_of_settled hs.settled hr
    exact ⟨hw, by rw [List.length_append]; omega⟩
  · exact waiting_of_settled (settled_of_push h) ht

end Sys2Proof.Machine
end

section
/-! PROOF. A step reads only the offsets of R59: with other bytes behind those offsets it takes the same branch and
makes the same writes. -/

namespace Sys2Proof.Machine

/-! ## Two buffers that agree at some offsets -/

theorem bytesAt_congr {buf other : List Byte} {off : Nat}
    (h : ∀ k ∈ [off, off + 1, off + 2, off + 3], byteAt other k = byteAt buf k) :
    bytesAt other off = bytesAt buf off := by
  simp only [bytesAt, h, List.mem_cons, true_or, or_true]

theorem headerOf_congr {buf other : List Byte} (h : ∀ k ∈ [0, 1, 2, 3], byteAt other k = byteAt buf k) :
    headerOf other = headerOf buf :=
  congrArg be32 (bytesAt_congr h)

theorem startsWithId3_congr {buf other : List Byte} (hl : other.length = buf.length)
    (h : ∀ k ∈ [0, 1, 2], byteAt other k = byteAt buf k) :
    startsWithId3 other = startsWithId3 buf := by
  have htake : other.take 3 = buf.take 3 := by
    refine List.ext_getElem (by simp [hl]) fun k h1 h2 => ?_
    rw [List.length_take, Nat.lt_min] at h1 h2
    have hk := h k (by simp only [List.mem_cons]; omega)
    rw [byteAt, byteAt, List.getD_eq_getElem _ _ h1.2, List.getD_eq_getElem _ _ h2.2] at hk
    rwa [List.getElem_take, List.getElem_take]
  rw [startsWithId3, htake, startsWithId3]

/-! ## The state with other bytes -/

/-- The state with other bytes in the buffer. -/
def withBuf (other : List Byte) (s : State) : State := { s with buf := other }

@[simp] theorem withBuf_buf (other : List Byte) (s : State) : (withBuf other s).buf = other := rfl
@[simp] theorem withBuf_phase (other : List Byte) (s : State) : (withBuf other s).phase = s.phase := rfl
@[simp] theorem withBuf_count (other : List Byte) (s : State) : (withBuf other s).count = s.count := rfl
@[simp] theorem withBuf_firstChmode (other : List Byte) (s : State) :
    (withBuf other s).firstChmode = s.firstChmode := rfl

/-- The same state but for the buffer's bytes, of which there are as many. -/
def SameButBytes (s s' : State) : Prop := withBuf s.buf s' = s ∧ s'.buf.length = s.buf.length

section
variable {s : State} {other : List Byte} (hl : other.length = s.buf.length)
include hl

theorem stepId3_withBuf (hm : startsWithId3 other = startsWithId3 s.buf)
    (hz : startsWithId3 s.buf = true → bytesAt other 6 = bytesAt s.buf 6) :
    RelRes (RelStep SameButBytes) (stepId3 s) (stepId3 (withBuf other s)) := by
  rw [stepId3_eq, stepId3_eq, withBuf_buf, hl, hm]
  refine .ite (.next .wait) ?_
  by_cases hs : startsWithId3 s.buf = true
  · rw [if_pos hs, if_pos hs, hz hs]
    exact .ite (.next .wait) (.next (.moved ⟨rfl, by simp [hl]⟩))
  · rw [if_neg hs, if_neg hs]
    exact .next (.moved ⟨rfl, hl⟩)

theorem stepFirst_withBuf (hh : headerOf other = headerOf s.buf) :
    RelRes (RelStep SameButBytes) (stepFirst s) (stepFirst (withBuf other s)) := by
  rw [stepFirst_eq, stepFirst_eq, withBuf_buf, hl, hh]
  exact .ite (.next .wait) (.ite (.next (.moved ⟨rfl, hl⟩)) (.next (.ended ⟨rfl, rfl⟩)))

theorem skipMarker_withBuf (h : Word) :
    RelRes (RelStep SameButBytes) (skipMarker h s) (skipMarker h (withBuf other s)) := by
  rw [skipMarker_eq, skipMarker_eq, withBuf_buf, hl]
  cases framelenOf h with
  | invalid => exact .next (.moved ⟨rfl, hl⟩)
  | bytes l => exact .ite (.next .wait) (.next (.moved ⟨rfl, by simp [hl]⟩))

theorem stepVbr_withBuf
    (ht : vbrTagAt (vbroff s.firstChmode) other = vbrTagAt (vbroff s.firstChmode) s.buf)
    (hh : vbrTagAt (vbroff s.firstChmode) s.buf = true → headerOf other = headerOf s.buf) :
    RelRes (RelStep SameButBytes) (stepVbr s) (stepVbr (withBuf other s)) := by
  rw [stepVbr_eq, stepVbr_eq, withBuf_buf, withBuf_firstChmode, hl, ht]
  refine .ite (.next .wait) ?_
  by_cases hs : vbrTagAt (vbroff s.firstChmode) s.buf = true
  · rw [if_pos hs, if_pos hs, hh hs]
    exact skipMarker_withBuf hl _
  · rw [if_neg hs, if_neg hs]
    exact .next (.moved ⟨rfl, hl⟩)

theorem scanFrame_withBuf (h : Word) :
    RelRes (RelStep SameButBytes) (scanFrame h s) (scanFrame h (withBuf other s)) := by
  rw [scanFrame_eq, scanFrame_eq, withBuf_buf, withBuf_count, hl]
  cases framelenOf h with
  | invalid => exact .next (.ended ⟨rfl, rfl⟩)
  | bytes l =>
    exact .ite (.next .wait) (.ite (.refused _) (.next (.moved ⟨rfl, by simp [hl]⟩)))

theorem stepScan_withBuf (hh : headerOf other = headerOf s.buf) :
    RelRes (RelStep SameButBytes) (stepScan s) (stepScan (withBuf other s)) := by
  rw [stepScan_eq, stepScan_eq, withBuf_buf, hl, hh]
  exact .ite (.next .wait) (.ite (scanFrame_withBuf hl _) (.next (.ended ⟨rfl, rfl⟩)))

/-- The step of the phase reads the offsets of R59 and no others. -/
theorem stepOfPhase_withBuf (hk : ∀ k ∈ readOffsets s, byteAt other k = byteAt s.buf k) :
    RelRes (RelStep SameButBytes) (stepOfPhase s) (stepOfPhase (withBuf other s)) := by
  unfold readOffsets at hk
  cases hp : s.phase <;> simp only [hp, List.forall_mem_append] at hk
  case awaitingId3 =>
    obtain ⟨hmagic, hsize⟩ := hk
    rw [stepOfPhase_awaitingId3 hp, stepOfPhase_awaitingId3 (by exact hp)]
    refine stepId3_withBuf hl (startsWithId3_congr hl hmagic) fun hs => bytesAt_congr ?_
    rwa [if_pos hs] at hsize
  case awaitingFirstFrameHeader =>
    rw [stepOfPhase_awaitingFirstFrameHeader hp, stepOfPhase_awaitingFirstFrameHeader (by exact hp)]
    exact stepFirst_withBuf hl (headerOf_congr hk)
  case awaitingVbrDecision =>
    obtain ⟨htag, hheader⟩ := hk
    rw [stepOfPhase_awaitingVbrDecision hp, stepOfPhase_awaitingVbrDecision (by exact hp)]
    refine stepVbr_withBuf hl ?_ fun hs => headerOf_congr ?_
    · rw [vbrTagAt, bytesAt_congr htag, vbrTagAt]
    · rwa [if_pos hs] at hheader
  case scanningFrames =>
    rw [stepOfPhase_scanningFrames hp, stepOfPhase_scanningFrames (by exact hp)]
    exact stepScan_withBuf hl (headerOf_congr hk)
  case done => rw [stepOfPhase, stepOfPhase, withBuf_phase, hp]; exact .next .wait
  case failed => rw [stepOfPhase, stepOfPhase, withBuf_phase, hp]; exact .next .wait

/-- What a step run by itself records does not depend on the bytes either. -/
theorem runAlone_withBuf {r r' : Res StepOut} (h : RelRes (RelStep SameButBytes) r r') :
    RelRes SameButBytes (runAlone r s) (runAlone r' (withBuf other s)) := by
  refine h.andThen fun o o' ho => .next ?_
  cases ho with
  | moved ht => exact ⟨congrArg (withResult (.stepped .moved)) ht.1, ht.2⟩
  | wait => exact ⟨rfl, hl⟩
  | ended ht => exact ⟨congrArg (withResult (.stepped .ended)) ht.1, ht.2⟩

end

/-- Settles O51: a step is the step of its phase, run by itself, and that reads no other offset. -/
theorem stepsReadOnlyTheListedOffsets : Obligations.StepsReadOnlyTheListedOffsets := by
  intro i s t other hi hl hk h
  obtain ⟨p, hx⟩ := exec_of_isStep hi
  have hrel : RelRes SameButBytes (exec i s) (exec i (withBuf other s)) := by
    rw [hx, hx, withBuf_phase]
    exact .ite (runAlone_withBuf hl (stepOfPhase_withBuf hl hk)) (.refused _)
  rw [h] at hrel
  generalize hr : exec i (withBuf other s) = r at hrel
  cases hrel with
  | @next _ t' ht => exact ⟨t', hr, ht⟩

end Sys2Proof.Machine
end

section
/-! PROOF. The recognisers of the header rows as conditions on the fields of R81 (R82, R91, R96). A row of mask and
match that asks for one field is a `fieldRow`, and one that asks for two things at once is the `bothRows` of them;
each header row of the table is built from these two. -/

namespace Sys2Proof.Machine

/-! ## Rows of mask and match -/

/-- The row that asks for the value `v` in the bits from `lo` upwards and for nothing else. -/
def fieldRow (lo : Nat) {n : Nat} (v : BitVec n) : PatternRow :=
  ⟨(BitVec.allOnes n).setWidth 32 <<< lo, v.setWidth 32 <<< lo⟩

/-- The row that asks for what `r` and `q` ask for. -/
def bothRows (r q : PatternRow) : PatternRow := ⟨r.mask ||| q.mask, r.value ||| q.value⟩

theorem hits_iff {r : PatternRow} {h : Word} : r.hits h = true ↔ h &&& r.mask = r.value := beq_iff_eq

theorem fieldRow_hits {lo n : Nat} {v : BitVec n} {h : Word} (hn : lo + n ≤ 32) :
    (fieldRow lo v).hits h = true ↔ h.extractLsb' lo n = v := by
  simp only [hits_iff, fieldRow]
  constructor
  · intro he
    ext i hi
    have hb := congrArg (·.getLsbD (lo + i)) he
    simpa [hi, show lo + i < 32 by omega, show i < 32 by omega] using hb
  · rintro rfl
    ext i hi
    rcases Nat.lt_or_ge i lo with hl | hl
    · simp [hl]
    · by_cases hu : i - lo < n
      · simp [hu, Nat.not_lt.2 hl, Nat.add_sub_cancel' hl, hi]
      · simp [hu]

theorem and_or_and_self {n : Nat} (h a b : BitVec n) : h &&& (a ||| b) &&& a = h &&& a := by
  rw [BitVec.and_assoc]
  congr 1
  ext i hi
  simp +contextual

/-- Two rows whose matches agree where their masks meet are hit together exactly when `bothRows` of them is. -/
theorem bothRows_hits {r q : PatternRow} {h : Word} (hr : (r.value ||| q.value) &&& r.mask = r.value)
    (hq : (r.value ||| q.value) &&& q.mask = q.value) :
    (bothRows r q).hits h = true ↔ r.hits h = true ∧ q.hits h = true := by
  simp only [hits_iff, bothRows]
  constructor
  · intro he
    rw [← he] at hr hq
    constructor
    · rw [← hr, and_or_and_self]
    · rw [← hq, BitVec.or_comm, and_or_and_self]
  · rintro ⟨h1, h2⟩
    rw [BitVec.and_or_distrib_left, h1, h2]

/-! ## The header rows -/

theorem hdrvalid_iff {h : Word} :
    hdrvalid h = true ↔ hdrSync h = 0x7FF ∧ hdrVersion h = 3 ∧ hdrLayer h = 1 := by
  simp [hdrvalid, hdrdec, and_assoc]

/-- HDR_VALID asks for the three fields of R81 that R113 asks for. -/
theorem rowHdrValid_hits {h : Word} : rowHdrValid.hits h = true ↔ hdrvalid h = true := by
  have hrow : rowHdrValid =
      bothRows (fieldRow 21 (0x7FF : BitVec 11)) (bothRows (fieldRow 19 3#2) (fieldRow 17 1#2)) := rfl
  rw [hdrvalid_iff, hrow, bothRows_hits rfl rfl, bothRows_hits rfl rfl, fieldRow_hits (by decide),
    fieldRow_hits (by decide), fieldRow_hits (by decide)]
  rfl

theorem rowReservedSr3_hits {h : Word} :
    rowReservedSr3.hits h = true ↔ hdrvalid h = true ∧ hdrSampleRateIndex h = 3 := by
  have hrow : rowReservedSr3 = bothRows rowHdrValid (fieldRow 10 3#2) := rfl
  rw [hrow, bothRows_hits rfl rfl, rowHdrValid_hits, fieldRow_hits (by decide)]
  rfl

theorem rowReservedBr0_hits {h : Word} :
    rowReservedBr0.hits h = true ↔ hdrvalid h = true ∧ hdrBitrateIndex h = 0 := by
  have hrow : rowReservedBr0 = bothRows rowHdrValid (fieldRow 12 0#4) := rfl
  rw [hrow, bothRows_hits rfl rfl, rowHdrValid_hits, fieldRow_hits (by decide)]
  rfl

theorem rowReservedBr15_hits {h : Word} :
    rowReservedBr15.hits h = true ↔ hdrvalid h = true ∧ hdrBitrateIndex h = 15 := by
  have hrow : rowReservedBr15 = bothRows rowHdrValid (fieldRow 12 15#4) := rfl
  rw [hrow, bothRows_hits rfl rfl, rowHdrValid_hits, fieldRow_hits (by decide)]
  rfl

/-- The row of a header value, by its fields (R91, R96; order: log 12). -/
theorem headerInstr_eq (invalid : Word → Instr) (h : Word) :
    headerInstr invalid h =
      if hdrvalid h = true then
        if hdrSampleRateIndex h = 3 then .hdrLenReservedSr3 h
        else if hdrBitrateIndex h = 0 then .hdrLenReservedBr0 h
        else if hdrBitrateIndex h = 15 then .hdrLenReservedBr15 h
        else .hdrValid h
      else invalid h := by
  simp only [headerInstr, rowReservedSr3_hits, rowReservedBr0_hits, rowReservedBr15_hits, rowHdrValid_hits]
  by_cases hv : hdrvalid h = true
  · simp only [hv, true_and, if_true]
  · simp only [hv]
    rfl

theorem decode_hdr32First (h : Word) :
    decode (.unit .hdr32First (wordBytes h).toList) = .instr (headerInstr .hdrInvalidFirst h) := by
  simp [decode, decodeUnit]

theorem decode_hdr32Later (h : Word) :
    decode (.unit .hdr32Later (wordBytes h).toList) = .instr (headerInstr .hdrInvalidLater h) := by
  simp [decode, decodeUnit]

/-- Settles O6: the two formats differ in the row of an invalid header alone. -/
theorem everyHeaderValueHasItsRow : Obligations.EveryHeaderValueHasItsRow := fun h =>
  ⟨by rw [decode_hdr32First, headerInstr_eq]; rfl, by rw [decode_hdr32Later, headerInstr_eq]; rfl⟩

/-! ## Validity of a header (R82) -/

theorem byte_eq_FA_or_FB : ∀ b : Byte, b.extractLsb' 1 7 = 0x7D ↔ b = 0xFA ∨ b = 0xFB := by decide

/-- HDR_VALID asks for bits 31 to 17 as one field (R82). -/
theorem hdrvalid_iff_bits {h : Word} : hdrvalid h = true ↔ h.extractLsb' 17 15 = 0b111111111111101 := by
  have hrow : rowHdrValid = fieldRow 17 (0b111111111111101 : BitVec 15) := rfl
  rw [← rowHdrValid_hits, hrow, fieldRow_hits (by decide)]

/-- HDR_VALID asks for the first byte and for the upper seven bits of the second (R82). -/
theorem hdrvalid_iff_bytes {h : Word} :
    hdrvalid h = true ↔ (wordBytes h).b0 = 0xFF ∧ ((wordBytes h).b1 = 0xFA ∨ (wordBytes h).b1 = 0xFB) := by
  have hrow : rowHdrValid = bothRows (fieldRow 24 0xFF#8) (fieldRow 17 0x7D#7) := rfl
  have hb : (wordBytes h).b1.extractLsb' 1 7 = h.extractLsb' 17 7 := by
    ext i hi
    simp [wordBytes, show 1 + i < 8 by omega, show 16 + (1 + i) = 17 + i by omega]
  rw [← byte_eq_FA_or_FB, hb, ← rowHdrValid_hits, hrow, bothRows_hits rfl rfl, fieldRow_hits (by decide),
    fieldRow_hits (by decide)]
  rfl

/-- Settles O3: mask and match, the fifteen bits and the two bytes are three ways to write HDR_VALID's row. -/
theorem headerValidByPatternAndBytes : Obligations.HeaderValidByPatternAndBytes := fun _ =>
  ⟨rowHdrValid_hits.symm.trans hits_iff, hdrvalid_iff_bits, hdrvalid_iff_bytes⟩

/-! ## The ignored bits of a header (R83) -/

/-- Bits flipped where the field has none leave the field as it was. -/
theorem extractLsb'_xor_and {h m mask : Word} {lo n : Nat} (hmask : mask.extractLsb' lo n = 0) :
    (h ^^^ (m &&& mask)).extractLsb' lo n = h.extractLsb' lo n := by
  rw [BitVec.extractLsb'_xor, BitVec.extractLsb'_and, hmask]
  simp

/-- HDRDEC reads none of bits 16, 8 and 5 to 0 (R83, R111). -/
theorem hdrdec_xor_ignored (h m : Word) : hdrdec (h ^^^ (m &&& 0x0001013F#32)) = hdrdec h := by
  simp (disch := decide) only [hdrdec, hdrSync, hdrVersion, hdrLayer, hdrBitrateIndex, hdrSampleRateIndex,
    hdrPadding, hdrChannelMode, extractLsb'_xor_and]

theorem fieldAt_eq (h : Word) (lo n : Nat) : fieldAt h lo n = (h.extractLsb' lo n).toNat := by
  rw [fieldAt, BitVec.extractLsb'_toNat, Nat.shiftRight_eq_div_pow]

theorem hdrChannelMode_eq_three_iff {h : Word} : hdrChannelMode h = 3 ↔ h.toNat / 64 % 4 = 3 := by
  rw [← BitVec.toNat_inj, hdrChannelMode, ← fieldAt_eq]
  rfl

/-- Settles O4: validity, length and offset are functions of what HDRDEC returns. -/
theorem ignoredHeaderBitsHaveNoEffect : Obligations.IgnoredHeaderBitsHaveNoEffect := by
  intro h m
  have hd := hdrdec_xor_ignored h m
  refine ⟨?_, ?_, ?_, ?_⟩
  · simp only [hdrvalid, hd]
  · simp only [framelenOf, hd]
  · exact congrArg (fun f => vbroff f.channelMode) hd
  · simp only [vbroff, hdrChannelMode_eq_three_iff]
    rfl

end Sys2Proof.Machine
end

section
/-! PROOF. Decode of encode (R81, R84, R86, R190; layouts of log 13): the header rows, the ID3v2 tag header, and the
operands of the blocks driven by hand. -/

namespace Sys2Proof.Machine

/-! ## What a well-formed header row says -/

theorem headerFieldsValid_iff {h : Word} : headerFieldsValid h = true ↔ hdrvalid h = true := by
  rw [hdrvalid_iff]
  simp only [headerFieldsValid, fieldAt_eq, Bool.and_eq_true, beq_iff_eq, ← BitVec.toNat_inj, and_assoc]
  rfl

theorem sampleRateReserved_iff {h : Word} : sampleRateReserved h = true ↔ hdrSampleRateIndex h = 3 := by
  rw [sampleRateReserved, fieldAt_eq, beq_iff_eq, ← BitVec.toNat_inj]
  rfl

theorem fieldAt_bitrate_iff {h : Word} {k : BitVec 4} : fieldAt h 12 4 = k.toNat ↔ hdrBitrateIndex h = k := by
  rw [fieldAt_eq, BitVec.toNat_inj]
  rfl

theorem bitrateReserved_iff {h : Word} :
    bitrateReserved h = true ↔ hdrBitrateIndex h = 0 ∨ hdrBitrateIndex h = 15 := by
  rw [bitrateReserved, Bool.or_eq_true, beq_iff_eq, beq_iff_eq]
  exact or_congr (fieldAt_bitrate_iff (k := 0)) (fieldAt_bitrate_iff (k := 15))

theorem decode_encode_hdrValid {h : Word} (hw : (Instr.hdrValid h).wellFormed = true) :
    decode (encode (.hdrValid h)) = .instr (.hdrValid h) := by
  simp only [Instr.wellFormed, Bool.and_eq_true, Bool.not_eq_true', ← Bool.not_eq_true,
    headerFieldsValid_iff, sampleRateReserved_iff, bitrateReserved_iff, not_or] at hw
  obtain ⟨⟨hv, hr⟩, h0, h15⟩ := hw
  rw [encode, decode_hdr32Later, headerInstr_eq, if_pos hv, if_neg hr, if_neg h0, if_neg h15]

theorem decode_encode_hdrLenReservedBr0 {h : Word} (hw : (Instr.hdrLenReservedBr0 h).wellFormed = true) :
    decode (encode (.hdrLenReservedBr0 h)) = .instr (.hdrLenReservedBr0 h) := by
  simp only [Instr.wellFormed, Bool.and_eq_true, Bool.not_eq_true', ← Bool.not_eq_true,
    headerFieldsValid_iff, sampleRateReserved_iff, beq_iff_eq] at hw
  obtain ⟨⟨hv, hr⟩, h0⟩ := hw
  rw [encode, decode_hdr32Later, headerInstr_eq, if_pos hv, if_neg hr, if_pos (fieldAt_bitrate_iff.1 h0)]

theorem decode_encode_hdrLenReservedBr15 {h : Word} (hw : (Instr.hdrLenReservedBr15 h).wellFormed = true) :
    decode (encode (.hdrLenReservedBr15 h)) = .instr (.hdrLenReservedBr15 h) := by
  simp only [Instr.wellFormed, Bool.and_eq_true, Bool.not_eq_true', ← Bool.not_eq_true,
    headerFieldsValid_iff, sampleRateReserved_iff, beq_iff_eq] at hw
  obtain ⟨⟨hv, hr⟩, h15⟩ := hw
  have hb : hdrBitrateIndex h = 15 := fieldAt_bitrate_iff.1 h15
  rw [encode, decode_hdr32Later, headerInstr_eq, if_pos hv, if_neg hr, if_neg (by rw [hb]; decide), if_pos hb]

theorem decode_encode_hdrLenReservedSr3 {h : Word} (hw : (Instr.hdrLenReservedSr3 h).wellFormed = true) :
    decode (encode (.hdrLenReservedSr3 h)) = .instr (.hdrLenReservedSr3 h) := by
  simp only [Instr.wellFormed, Bool.and_eq_true, headerFieldsValid_iff, sampleRateReserved_iff] at hw
  obtain ⟨hv, hr⟩ := hw
  rw [encode, decode_hdr32Later, headerInstr_eq, if_pos hv, if_pos hr]

/-- The row of an invalid header is the one its format names (R96). -/
theorem headerInstr_of_invalid {invalid : Word → Instr} {h : Word} (hw : (!headerFieldsValid h) = true) :
    headerInstr invalid h = invalid h := by
  rw [Bool.not_eq_true', ← Bool.not_eq_true, headerFieldsValid_iff] at hw
  rw [headerInstr_eq, if_neg hw]

/-! ## Operands -/

theorem decode_encode_id3Magic (v : BitVec 16) (f : Byte) (z : Bytes4) :
    decode (encode (.id3Magic v f z)) = .instr (.id3Magic v f z) := by
  have hv : v.extractLsb' 8 8 ++ v.extractLsb' 0 8 = v :=
    BitVec.extractLsb'_append_extractLsb' (w := 8) (len := 8)
  exact congrArg (fun w => Decoded.instr (.id3Magic w f z)) hv

/-- The low bits of an operand word are the value that was widened to it. -/
theorem setWidth32_low {n : Nat} (x : BitVec n) (hn : n ≤ 32) : (x.setWidth 32).extractLsb' 0 n = x := by
  rw [← BitVec.setWidth_eq_extractLsb' hn, BitVec.setWidth_setWidth_of_le x hn, BitVec.setWidth_eq]

/-- FRAMELEN's operand word gives back the three fields it was made of (R81). -/
theorem framelenWord_fields : ∀ (bi : BitVec 4) (si : BitVec 2) (p : BitVec 1),
    let w : Word := (bi.setWidth 32 <<< 12) ||| (si.setWidth 32 <<< 10) ||| (p.setWidth 32 <<< 9)
    hdrBitrateIndex w = bi ∧ hdrSampleRateIndex w = si ∧ hdrPadding w = p := by decide

theorem decode_encode_framelen (bi : BitVec 4) (si : BitVec 2) (p : BitVec 1) :
    decode (encode (.framelen bi si p)) = .instr (.framelen bi si p) := by
  obtain ⟨hb, hs, hp⟩ := framelenWord_fields bi si p
  simp only [encode, decode, decodeBlock, hb, hs, hp]

theorem decode_encode_vbroff : ∀ cm : BitVec 2, decode (encode (.vbroff cm)) = .instr (.vbroff cm) := by decide

theorem decode_encode_terminate {p : EndPhase} {o : EndOutcome} (hw : endOperandsMatch p o = true) :
    decode (encode (.terminate p o)) = .instr (.terminate p o) := by
  cases p with
  | done =>
    cases o with
    | count => rfl
    | formatError => cases hw
    | ioFailure e => cases hw
  | failed =>
    cases o with
    | count => cases hw
    | formatError => rfl
    | ioFailure e =>
      have hword : endWord .failed (.ioFailure e) = 0x305 := by simp [endWord]
      rw [encode, hword]
      rfl

/-- Settles O2: by the rows of the table. A header goes by its fields, an operand word gives its fields back, and
what is left has no operand or carries it unchanged. -/
theorem decodeOfEncodeIsTheInstruction : Obligations.DecodeOfEncodeIsTheInstruction := by
  intro i hw
  cases i with
  | hdrValid h => exact decode_encode_hdrValid hw
  | hdrInvalidFirst h => rw [encode, decode_hdr32First, headerInstr_of_invalid hw]
  | hdrInvalidLater h => rw [encode, decode_hdr32Later, headerInstr_of_invalid hw]
  | hdrLenReservedBr0 h => exact decode_encode_hdrLenReservedBr0 hw
  | hdrLenReservedBr15 h => exact decode_encode_hdrLenReservedBr15 hw
  | hdrLenReservedSr3 h => exact decode_encode_hdrLenReservedSr3 hw
  | id3Magic v f z => exact decode_encode_id3Magic v f z
  | syncsafe b => exact congrArg (fun z => Decoded.instr (.syncsafe z)) (wordBytes_be32 b)
  | tagskip b => exact congrArg (fun z => Decoded.instr (.tagskip z)) (wordBytes_be32 b)
  | framelen bi si p => exact decode_encode_framelen bi si p
  | vbroff cm => exact decode_encode_vbroff cm
  | bitrate k => exact congrArg (fun j => Decoded.instr (.bitrate j)) (setWidth32_low k (by decide))
  | samplerate k => exact congrArg (fun j => Decoded.instr (.samplerate j)) (setWidth32_low k (by decide))
  | terminate p o => exact decode_encode_terminate hw
  | vbrXing | vbrInfo | hdrdec | hdrIsValid | advance | stepId3 | stepFirst | stepVbr | stepScan | reset | push
  | eos | srcerr | beatReserved => rfl

/-- Settles O1: each word is decoded by computation. -/
theorem writtenOutWordsDecode : Obligations.WrittenOutWordsDecode := by
  unfold Obligations.WrittenOutWordsDecode
  decide

end Sys2Proof.Machine
end

section
/-! PROOF. The tag units at their places (R84 to R87, R152, R154), and every stream unit as the step that is run in
its phase. -/

namespace Sys2Proof.Machine

/-! ## Syncsafe numbers -/

/-- SYNCSAFE sets the four 7-bit groups side by side, with no bit shared (R110). -/
theorem syncsafe_eq_append (b : Bytes4) :
    syncsafe b =
      b.b0.extractLsb' 0 7 ++ b.b1.extractLsb' 0 7 ++ b.b2.extractLsb' 0 7 ++ b.b3.extractLsb' 0 7 := by
  ext i hi
  simp only [syncsafe, low7, BitVec.getElem_or, BitVec.getElem_shiftLeft, BitVec.getElem_setWidth]
  grind

theorem syncsafe_toNat (b : Bytes4) :
    (syncsafe b).toNat = b.b0.toNat % 128 * 2 ^ 21 + b.b1.toNat % 128 * 2 ^ 14 + b.b2.toNat % 128 * 2 ^ 7 +
      b.b3.toNat % 128 := by
  simp only [syncsafe_eq_append, toNat_append_eq_add, BitVec.extractLsb'_toNat, Nat.shiftRight_zero]
  omega

theorem tagskip_eq (b : Bytes4) :
    tagskip b = 10 + (b.b0.toNat % 128 * 2 ^ 21 + b.b1.toNat % 128 * 2 ^ 14 + b.b2.toNat % 128 * 2 ^ 7 +
      b.b3.toNat % 128) := by
  rw [tagskip, syncsafe_toNat]
  rfl

/-! ## Tags at their places -/

/-- An ID3v2 tag at its place is skipped whole, or waited for (R84, R152). -/
theorem exec_id3Magic_of_met {v : BitVec 16} {f : Byte} {z : Bytes4} {s : State} (hp : s.phase = .awaitingId3)
    (ht : tagAtFront v f z s = true) :
    exec (.id3Magic v f z) s = .next (settleStep s (
      if s.buf.length < tagskip z then .wait
      else .moved { s with
        buf := s.buf.drop (tagskip z), pos := s.pos + tagskip z, phase := .awaitingFirstFrameHeader })) := by
  show execId3Magic v f z s = _
  rw [execId3Magic, if_pos ⟨hp, ht⟩]
  by_cases hl : s.buf.length < tagskip z
  · rw [if_pos hl, if_pos hl]
    rfl
  · rw [if_neg hl, if_neg hl, consume_of_le (Nat.le_of_not_lt hl)]
    rfl

/-- Settles O34: the ten bytes are the tag header, and its size is the sum of the 7-bit groups. -/
theorem id3TagUnit : Obligations.Id3TagUnit := by
  intro v f z s hp ht
  have hx := exec_id3Magic_of_met (v := v) (f := f) (z := z) hp (beq_iff_eq.2 ht)
  simp only [← tagskip_eq]
  constructor
  · intro hl
    rw [hx, if_pos hl]
    rfl
  · intro hl
    rw [hx, if_neg (Nat.not_lt.2 hl)]
    rfl

/-- A VBR tag at its offset is the skipping of its marker frame (R86, R87, R154). -/
theorem exec_vbrTag_of_met {i : Instr} {s : State} (hp : s.phase = .awaitingVbrDecision)
    (hl : vbroff s.firstChmode + 12 ≤ s.buf.length)
    (hi : (i = .vbrXing ∧ bytesAt s.buf (vbroff s.firstChmode) = xingBytes) ∨
      (i = .vbrInfo ∧ bytesAt s.buf (vbroff s.firstChmode) = infoBytes)) :
    exec i s = runAlone (skipMarker (headerOf s.buf) s) s := by
  rcases hi with ⟨rfl, hb⟩ | ⟨rfl, hb⟩
  · exact meetVbrTag_eq (vbrTagMet_iff.2 ⟨hp, hl, hb⟩)
  · exact meetVbrTag_eq (vbrTagMet_iff.2 ⟨hp, hl, hb⟩)

/-- Settles O35: the three branches of skipping a marker frame. -/
theorem vbrTagUnits : Obligations.VbrTagUnits := by
  intro s i hp hl hi
  rw [exec_vbrTag_of_met hp hl hi, skipMarker_eq]
  refine ⟨?_, ?_, ?_⟩
  · intro hf
    rw [hf]
    rfl
  · intro l hf hlt
    simp only [hf, if_pos hlt]
    rfl
  · intro l hf hle
    simp only [hf, if_neg (Nat.not_lt.2 hle)]
    rfl

/-! ## All nine rows as the step of the phase -/

/-- The step a running phase selects, run by itself, is the step of the phase. -/
theorem runInPhase_eq_runPhaseStep {p : Phase} {f : State → Res StepOut} {s : State} (hp : s.phase = p)
    (hr : p.isTerminal = false) (hf : stepOfPhase s = f s) : runInPhase p f s = runPhaseStep s := by
  subst hp
  rw [runInPhase_self, runPhaseStep_of_running hr, hf]

/-- Settles O36: a unit is the step of the phase, and so is the operation of that step. -/
theorem streamUnitRunsAsTheStep : Obligations.StreamUnitRunsAsTheStep := by
  intro s i hi
  have hu : isStreamUnit i = true := by
    rcases hi with ⟨_, rfl⟩ | ⟨_, rfl⟩ | ⟨_, rfl⟩ | ⟨_, rfl⟩ | ⟨_, rfl⟩ | ⟨_, rfl⟩ |
      ⟨_, _, _, rfl⟩ | rfl | rfl <;> rfl
  rw [exec_of_isStreamUnit hu]
  exact ⟨fun hp => (runInPhase_eq_runPhaseStep hp rfl (stepOfPhase_awaitingId3 hp)).symm,
    fun hp => (runInPhase_eq_runPhaseStep hp rfl (stepOfPhase_awaitingFirstFrameHeader hp)).symm,
    fun hp => (runInPhase_eq_runPhaseStep hp rfl (stepOfPhase_awaitingVbrDecision hp)).symm,
    fun hp => (runInPhase_eq_runPhaseStep hp rfl (stepOfPhase_scanningFrames hp)).symm,
    runPhaseStep_of_terminal⟩

end Sys2Proof.Machine
end

section
/-! PROOF. The Bitfield Decoder (R110 to R115): what each of its functions completes with, in numbers, and that the
functions and tables write no state of R20 (R112). -/

namespace Sys2Proof.Machine

/-! ## The functions and tables as they execute -/

theorem exec_syncsafe (b : Bytes4) (s : State) :
    exec (.syncsafe b) s = .next (withResult (.size (syncsafe b)) s) := rfl

theorem exec_hdrdec (h : Word) (s : State) :
    exec (.hdrdec h) s = .next (withResult (.header (hdrdec h)) s) := rfl

theorem exec_hdrIsValid (h : Word) (s : State) :
    exec (.hdrIsValid h) s = .next (withResult (.valid (hdrvalid h)) s) := rfl

theorem exec_framelen (bi : BitVec 4) (si : BitVec 2) (p : BitVec 1) (s : State) :
    exec (.framelen bi si p) s = .next (withResult (.length (framelen bi si p)) s) := rfl

theorem exec_vbroff (cm : BitVec 2) (s : State) :
    exec (.vbroff cm) s = .next (withResult (.offset (vbroff cm)) s) := rfl

theorem exec_tagskip (b : Bytes4) (s : State) :
    exec (.tagskip b) s = .next (withResult (.skip (tagskip b)) s) := rfl

theorem exec_bitrate (k : BitVec 4) (s : State) :
    exec (.bitrate k) s = .next (withResult (.tableEntry (bitrateAt k)) s) := rfl

theorem exec_samplerate (k : BitVec 2) (s : State) :
    exec (.samplerate k) s = .next (withResult (.tableEntry (sampleRateAt k)) s) := rfl

/-- Settles O14: each result is a term in the operands alone. -/
theorem functionsReadAndWriteNoState : Obligations.FunctionsReadAndWriteNoState := by
  rintro i (⟨b, rfl⟩ | ⟨h, rfl⟩ | ⟨h, rfl⟩ | ⟨bi, si, p, rfl⟩ | ⟨cm, rfl⟩ | ⟨b, rfl⟩ | ⟨k, rfl⟩ | ⟨k, rfl⟩)
  · exact ⟨_, exec_syncsafe b⟩
  · exact ⟨_, exec_hdrdec h⟩
  · exact ⟨_, exec_hdrIsValid h⟩
  · exact ⟨_, exec_framelen bi si p⟩
  · exact ⟨_, exec_vbroff cm⟩
  · exact ⟨_, exec_tagskip b⟩
  · exact ⟨_, exec_bitrate k⟩
  · exact ⟨_, exec_samplerate k⟩

/-- Settles O13: the written-out lists are the model's own tables. -/
theorem tableEntries : Obligations.TableEntries := ⟨exec_bitrate, exec_samplerate⟩

/-- Settles O7: the four groups are side by side, so their number is a sum. -/
theorem syncsafeResult : Obligations.SyncsafeResult := fun b s =>
  ⟨syncsafe b, exec_syncsafe b s, syncsafe_toNat b⟩

/-! ## The fields of a header by division (R111) -/

theorem extractLsb'_eq_ofNat_div (h : Word) (lo n : Nat) :
    h.extractLsb' lo n = BitVec.ofNat n (h.toNat / 2 ^ lo) := by
  rw [← BitVec.toNat_inj, ← fieldAt_eq, BitVec.toNat_ofNat, fieldAt]

theorem extractLsb'_eq_iff {h : Word} {lo n : Nat} {v : BitVec n} :
    h.extractLsb' lo n = v ↔ h.toNat / 2 ^ lo % 2 ^ n = v.toNat := by
  rw [← BitVec.toNat_inj, ← fieldAt_eq, fieldAt]

/-- The sync field is the top of the word, so its division needs no remainder. -/
theorem hdrSync_eq_iff {h : Word} : hdrSync h = 0x7FF ↔ h.toNat / 2 ^ 21 = 0x7FF := by
  have hlt : h.toNat / 2 ^ 21 < 2 ^ 11 := by omega
  rw [hdrSync, extractLsb'_eq_iff, Nat.mod_eq_of_lt hlt]
  rfl

theorem hdrVersion_eq_iff {h : Word} : hdrVersion h = 3 ↔ h.toNat / 2 ^ 19 % 4 = 3 := extractLsb'_eq_iff

theorem hdrLayer_eq_iff {h : Word} : hdrLayer h = 1 ↔ h.toNat / 2 ^ 17 % 4 = 1 := extractLsb'_eq_iff

/-- Settles O8: the three predicates by their fields, the four other fields as they stand. -/
theorem hdrdecResult : Obligations.HdrdecResult := by
  intro h s
  simp only [exec_hdrdec, ← hdrSync_eq_iff, ← hdrVersion_eq_iff, ← hdrLayer_eq_iff, ← extractLsb'_eq_ofNat_div]
  rfl

/-! ## Validity (R113) -/

theorem hdrvalid_eq_decide (h : Word) :
    hdrvalid h =
      decide (h.toNat / 2 ^ 21 = 0x7FF ∧ h.toNat / 2 ^ 19 % 4 = 3 ∧ h.toNat / 2 ^ 17 % 4 = 1) := by
  rw [Bool.eq_iff_iff, decide_eq_true_iff, hdrvalid_iff, hdrSync_eq_iff, hdrVersion_eq_iff, hdrLayer_eq_iff]

theorem exec_hdrIsValid_eq_true_iff {h : Word} {s : State} :
    exec (.hdrIsValid h) s = .next (withResult (.valid true) s) ↔ hdrvalid h = true := by
  rw [exec_hdrIsValid]
  constructor
  · intro he
    have hs := Host.Outcome.next.inj he
    exact OpResult.valid.inj (congrArg State.opResult hs)
  · intro hv
    rw [hv]

/-- Settles O9: the three predicates together, and the mask and match of R82. -/
theorem hdrvalidResult : Obligations.HdrvalidResult := by
  intro h s
  obtain ⟨hpattern, -, -⟩ := headerValidByPatternAndBytes h
  constructor
  · rw [exec_hdrIsValid, hdrvalid_eq_decide]
  · exact exec_hdrIsValid_eq_true_iff.trans hpattern

end Sys2Proof.Machine
end

section
/-! PROOF. The Length Calculator (R130 to R135): FRAMELEN, VBROFF and TAGSKIP in numbers, and the bounds of a
frame length. -/

namespace Sys2Proof.Machine

/-! ## FRAMELEN (R130, R131, R135) -/

/-- Settles O10: the written-out lists are the tables FRAMELEN reads, and 144 is its coefficient. -/
theorem framelenResult : Obligations.FramelenResult := exec_framelen

/-- A frame length leaves room for the offset of the VBR tag and the twelve bytes after it (R135). -/
theorem vbroff_add_lt_of_framelen {bi : BitVec 4} {si : BitVec 2} {p : BitVec 1} {l : Nat}
    (hl : framelen bi si p = .bytes l) (cm : BitVec 2) : vbroff cm + 12 < l := by
  have hlow := (framelen_bounds hl).1
  have hoff := vbroff_le cm
  omega

/-- Settles O11: the table by its 128 operands, the bounds by `framelen_bounds`. -/
theorem framelenValuesAndBounds : Obligations.FramelenValuesAndBounds := by
  refine ⟨by decide, by decide, by decide, ?_⟩
  intro bi si p l hl
  obtain ⟨hlow, hhigh⟩ := framelen_bounds hl
  exact ⟨hlow, hhigh, by omega, vbroff_add_lt_of_framelen hl⟩

/-! ## VBROFF and TAGSKIP (R132, R133) -/

/-- Settles O12: VBROFF by its definition, TAGSKIP by the sum of the sync-safe groups. -/
theorem vbroffAndTagskipResults : Obligations.VbroffAndTagskipResults := by
  constructor
  · exact exec_vbroff
  · intro b s
    rw [exec_tagskip, tagskip_eq]

end Sys2Proof.Machine
end

section
/-! PROOF. The four steps by their branches (R152 to R155), as the four step operations and as the header units that
run them (R80, R91). -/

namespace Sys2Proof.Machine

/-! ## The branches of a step -/

theorem skipMarker_of_invalid {h : Word} {s : State} (hf : framelenOf h = .invalid) :
    skipMarker h s = .next (.moved { s with phase := .scanningFrames }) := by
  rw [skipMarker_eq, hf]

theorem skipMarker_of_short {h : Word} {l : Nat} {s : State} (hf : framelenOf h = .bytes l)
    (hlt : s.buf.length < l) : skipMarker h s = .next .wait := by
  simp only [skipMarker_eq, hf, if_pos hlt]

theorem skipMarker_of_whole {h : Word} {l : Nat} {s : State} (hf : framelenOf h = .bytes l)
    (hle : l ≤ s.buf.length) :
    skipMarker h s =
      .next (.moved { s with buf := s.buf.drop l, pos := s.pos + l, phase := .scanningFrames }) := by
  simp only [skipMarker_eq, hf, if_neg (Nat.not_lt.2 hle)]

theorem vbrTagAt_iff {off : Nat} {buf : List Byte} :
    vbrTagAt off buf = true ↔ bytesAt buf off = xingBytes ∨ bytesAt buf off = infoBytes := by
  simp [vbrTagAt]

theorem stepVbr_of_tag {s : State} (hl : vbroff s.firstChmode + 12 ≤ s.buf.length)
    (ht : vbrTagAt (vbroff s.firstChmode) s.buf = true) : stepVbr s = skipMarker (headerOf s.buf) s := by
  rw [stepVbr_eq, if_neg (Nat.not_lt.2 hl), if_pos ht]

theorem stepVbr_of_no_tag {s : State} (hl : vbroff s.firstChmode + 12 ≤ s.buf.length)
    (ht : ¬ vbrTagAt (vbroff s.firstChmode) s.buf = true) :
    stepVbr s = .next (.moved { s with phase := .scanningFrames }) := by
  rw [stepVbr_eq, if_neg (Nat.not_lt.2 hl), if_neg ht]

theorem scanFrame_of_short {h : Word} {l : Nat} {s : State} (hf : framelenOf h = .bytes l)
    (hlt : s.buf.length < l) : scanFrame h s = .next .wait := by
  simp only [scanFrame_eq, hf, if_pos hlt]

theorem count_eq_last_iff {c : BitVec 32} : c = 0xFFFFFFFF#32 ↔ c.toNat = 2 ^ 32 - 1 := BitVec.toNat_inj.symm

/-- A whole frame below the last count is consumed and counted (R155). -/
theorem scanFrame_of_whole {h : Word} {l : Nat} {s : State} (hf : framelenOf h = .bytes l)
    (hle : l ≤ s.buf.length) (hc : s.count.toNat < 2 ^ 32 - 1) :
    scanFrame h s =
      .next (.moved { s with buf := s.buf.drop l, pos := s.pos + l, count := s.count + 1 }) := by
  have hlast : ¬ s.count = 0xFFFFFFFF#32 := fun h => (count_eq_last_iff.1 h).not_lt hc
  simp only [scanFrame_eq, hf, if_neg (Nat.not_lt.2 hle), if_neg hlast]

/-- A whole frame at the last count is refused (R23). -/
theorem scanFrame_of_last {h : Word} {l : Nat} {s : State} (hf : framelenOf h = .bytes l)
    (hle : l ≤ s.buf.length) (hc : s.count.toNat = 2 ^ 32 - 1) :
    scanFrame h s = .refused .countOverflow := by
  simp only [scanFrame_eq, hf, if_neg (Nat.not_lt.2 hle), if_pos (count_eq_last_iff.2 hc)]

theorem count_add_one (c : BitVec 32) : c + 1 = BitVec.ofNat 32 (c.toNat + 1) := by
  rw [BitVec.ofNat_add, BitVec.ofNat_toNat, BitVec.setWidth_eq]
  rfl

/-! ## The four step operations -/

theorem exec_stepId3 {s : State} (hp : s.phase = .awaitingId3) : exec .stepId3 s = runAlone (stepId3 s) s :=
  if_pos hp

theorem exec_stepFirst {s : State} (hp : s.phase = .awaitingFirstFrameHeader) :
    exec .stepFirst s = runAlone (stepFirst s) s := if_pos hp

theorem exec_stepVbr {s : State} (hp : s.phase = .awaitingVbrDecision) :
    exec .stepVbr s = runAlone (stepVbr s) s := if_pos hp

theorem exec_stepScan {s : State} (hp : s.phase = .scanningFrames) :
    exec .stepScan s = runAlone (stepScan s) s := if_pos hp

/-- Settles O15: the branches of STEP_ID3 by the length of the buffer and the magic. -/
theorem stepId3Result : Obligations.StepId3Result := by
  intro s hp
  rw [exec_stepId3 hp, stepId3_eq]
  refine ⟨fun hlt => ?_, fun h10 hm => ?_, fun h10 hm hlt => ?_, fun h10 hm hle => ?_⟩
  · rw [if_pos hlt]
    rfl
  · rw [if_neg (Nat.not_lt.2 h10), if_neg (mt take3_eq_magic.2 hm)]
    rfl
  · rw [if_neg (Nat.not_lt.2 h10), if_pos (take3_eq_magic.1 hm), if_pos (by exact hlt)]
    rfl
  · rw [if_neg (Nat.not_lt.2 h10), if_pos (take3_eq_magic.1 hm), if_neg (by exact Nat.not_lt.2 hle)]
    rfl

/-- Settles O16: the branches of STEP_FIRST by the length of the buffer and the header. -/
theorem stepFirstResult : Obligations.StepFirstResult := by
  intro s hp
  rw [exec_stepFirst hp]
  refine ⟨fun hlt => ?_, fun h4 hv => ?_, fun h4 hv => ?_⟩
  · rw [stepFirst_eq, if_pos hlt]
    rfl
  · rw [stepFirst_of_invalid h4 hv]
    rfl
  · rw [stepFirst_of_valid h4 hv]
    rfl

/-- Settles O17: the branches of STEP_VBR by the length of the buffer, the tag and the marker frame. -/
theorem stepVbrResult : Obligations.StepVbrResult := by
  intro s hp
  rw [exec_stepVbr hp]
  refine ⟨fun hlt => ?_, fun hl hm => ?_, fun hl hm hf => ?_, fun l hl hm hf hlt => ?_,
    fun l hl hm hf hle => ?_⟩
  · rw [stepVbr_eq, if_pos (by exact hlt)]
    rfl
  · rw [stepVbr_of_no_tag hl (mt vbrTagAt_iff.1 hm)]
    rfl
  · rw [stepVbr_of_tag hl (vbrTagAt_iff.2 hm), skipMarker_of_invalid hf]
    rfl
  · rw [stepVbr_of_tag hl (vbrTagAt_iff.2 hm), skipMarker_of_short hf hlt]
    rfl
  · rw [stepVbr_of_tag hl (vbrTagAt_iff.2 hm), skipMarker_of_whole hf hle]
    rfl

/-- Settles O18: the branches of STEP_SCAN by the length of the buffer, the header, the frame and the count. -/
theorem stepScanResult : Obligations.StepScanResult := by
  intro s hp
  rw [exec_stepScan hp, ← count_add_one]
  refine ⟨fun hlt => ?_, fun h4 hv => ?_, fun h4 hv hf => ?_, fun l h4 hv hf hlt => ?_,
    fun l h4 hv hf hle hc => ?_, fun l h4 hv hf hle hc => ?_⟩
  · rw [stepScan_eq, if_pos hlt]
    rfl
  · rw [stepScan_of_invalid h4 hv]
    rfl
  · rw [stepScan_of_valid h4 hv, scanFrame_of_invalid hf]
    rfl
  · rw [stepScan_of_valid h4 hv, scanFrame_of_short hf hlt]
    rfl
  · rw [stepScan_of_valid h4 hv, scanFrame_of_whole hf hle hc]
    rfl
  · rw [stepScan_of_valid h4 hv, scanFrame_of_last hf hle hc]
    rfl

/-! ## Header units in the first and the last phase -/

/-- A unit met in phase AwaitingFirstFrameHeader is STEP_FIRST (R80, R153). -/
theorem exec_unit_of_first {i : Instr} {s : State} (hi : isStreamUnit i = true)
    (hp : s.phase = .awaitingFirstFrameHeader) : exec i s = runAlone (stepFirst s) s := by
  rw [exec_of_isStreamUnit hi, runPhaseStep_of_running (by rw [hp]; rfl),
    stepOfPhase_awaitingFirstFrameHeader hp]

/-- A unit met in phase ScanningFrames is STEP_SCAN (R80, R155). -/
theorem exec_unit_of_scanning {i : Instr} {s : State} (hi : isStreamUnit i = true)
    (hp : s.phase = .scanningFrames) : exec i s = runAlone (stepScan s) s := by
  rw [exec_of_isStreamUnit hi, runPhaseStep_of_running (by rw [hp]; rfl), stepOfPhase_scanningFrames hp]

/-- Settles O32: a unit is STEP_FIRST on its header, whatever its length indices. -/
theorem firstHeaderUnits : Obligations.FirstHeaderUnits := by
  intro h s hp hfront
  obtain ⟨h4, rfl⟩ := take4_eq_wordBytes.1 hfront
  have haccept {i : Instr} (hi : isStreamUnit i = true) (hv : hdrvalid (headerOf s.buf) = true) :
      exec i s = .next (settleStep s (.moved (acceptFirst (headerOf s.buf) s))) := by
    rw [exec_unit_of_first hi hp, stepFirst_of_valid h4 hv]
    rfl
  refine ⟨haccept rfl, fun hv _ => haccept rfl hv, fun hv _ => haccept rfl hv, fun hv _ => haccept rfl hv,
    fun hv => ?_⟩
  rw [exec_unit_of_first rfl hp, stepFirst_of_invalid h4 hv]
  rfl

/-- Settles O33: a unit is STEP_SCAN on its header, and a reserved index makes the length Invalid. -/
theorem laterHeaderUnits : Obligations.LaterHeaderUnits := by
  intro h s hp hfront
  obtain ⟨h4, rfl⟩ := take4_eq_wordBytes.1 hfront
  have hended {i : Instr} (hi : isStreamUnit i = true) (hv : hdrvalid (headerOf s.buf) = true)
      (hf : framelenOf (headerOf s.buf) = .invalid) :
      exec i s = .next (settleStep s (.ended (endWithCount s))) := by
    rw [exec_unit_of_scanning hi hp, stepScan_of_valid h4 hv, scanFrame_of_invalid hf]
    rfl
  refine ⟨fun hv => ?_, fun hv hb => ?_, fun hv hb => ?_, fun hv hr => ?_, fun l hv hf hle hc => ?_⟩
  · rw [exec_unit_of_scanning rfl hp, stepScan_of_invalid h4 hv]
    rfl
  · exact hended rfl hv (framelenOf_of_bitrate (congrArg bitrateAt hb))
  · exact hended rfl hv (framelenOf_of_bitrate (congrArg bitrateAt hb))
  · exact hended rfl hv (framelenOf_of_sampleRate (congrArg sampleRateAt hr))
  · rw [exec_unit_of_scanning rfl hp, stepScan_of_valid h4 hv, scanFrame_of_whole hf hle hc, ← count_add_one]
    rfl

end Sys2Proof.Machine
end

section
/-! PROOF. ADVANCE as a loop with a bound (R150, R157, R158), and chunk boundaries in any settled state (R159). -/

namespace Sys2Proof.Machine

/-- In a terminal phase ADVANCE returns at once (R150). -/
theorem advance_of_terminal {s : State} (ht : s.phase.isTerminal = true) : advance s = .next s :=
  advance_of_wait (stepOfPhase_wait_iff.2 (.inl ht))

/-- Settles O21: the step of each phase, and ADVANCE by what that step answers. -/
theorem advanceGoesRoundOnMoved : Obligations.AdvanceGoesRoundOnMoved := fun _ _ =>
  ⟨stepOfPhase_awaitingId3, stepOfPhase_awaitingFirstFrameHeader, stepOfPhase_awaitingVbrDecision,
    stepOfPhase_scanningFrames, advance_of_terminal, advance_of_moved, advance_of_wait, advance_of_ended⟩

/-- Settles O22: the rounds still to come are within R157's bound, so any larger fuel is as good. -/
theorem advanceEndsWithinBound : Obligations.AdvanceEndsWithinBound := by
  intro s n hn
  have hrounds := rounds_le_advanceBound s
  exact ⟨advanceLoop_enough n (advanceBound s) s (hrounds.trans hn) hrounds, advance_ne_fault _ s⟩

/-- Settles O23: ADVANCE faults never and is refused only past the last count, and where it stops is settled. -/
theorem advanceCompletesSettled : Obligations.AdvanceCompletesSettled := by
  intro s hb
  cases ha : exec .advance s with
  | next t => exact ⟨t, rfl, settled_of_advance s t ha⟩
  | fault f => exact absurd ha (advance_ne_fault f s)
  | refused r => exact absurd hb (Nat.not_lt.2 (advance_refused s r ha).2)

/-! ## Chunks from a settled state (R159) -/

theorem pushAll_of_terminal (cs : List (List Byte)) {s : State} (ht : s.phase.isTerminal = true) :
    pushAll cs s = .next s := by
  induction cs with
  | nil => rfl
  | cons c cs ih =>
    calc pushAll (c :: cs) s
        = andThen (exec (.push c) s) (pushAll cs) := rfl
      _ = .next s := by rw [exec_push_of_terminal c ht, andThen_next, ih]

/-- Chunks pushed in a waiting state are one ADVANCE over all their bytes. -/
theorem pushAll_of_waiting (cs : List (List Byte)) {s : State} (hr : s.phase.isTerminal = false)
    (hw : Settled s) (hc : s.params.bufCap = none) : pushAll cs s = advance (feed cs.flatten s) := by
  rw [← advance_then_pushAll cs s hr hc, advance_of_wait (stepOfPhase_wait_iff.2 hw), andThen_next]

/-- Settles O54: in a terminal phase chunks do nothing, and in a waiting state their bytes alone count. -/
theorem chunkBoundariesDoNotMatter : Obligations.ChunkBoundariesDoNotMatter := by
  intro s cs ds hc hw hflat
  cases hr : s.phase.isTerminal with
  | true => rw [pushAll_of_terminal cs hr, pushAll_of_terminal ds hr]
  | false => rw [pushAll_of_waiting cs hr hw hc, pushAll_of_waiting ds hr hw hc, hflat]

end Sys2Proof.Machine
end

section
/-! PROOF. What no operation but RESET takes back: the phase, the count and the position (R156, R162), and the end
of a scan (R25, R210). -/

namespace Sys2Proof.Machine

/-- The scan has gone from `s` to `t`: the phase, the count and the position have not fallen, each counted frame
took at least 96 bytes, and an ended scan is as it was. -/
structure Progress (s t : State) : Prop where
  phase_le : s.phase.code.toNat ≤ t.phase.code.toNat
  count_le : s.count.toNat ≤ t.count.toNat
  taken : s.pos + 96 * (t.count.toNat - s.count.toNat) ≤ t.pos
  ended : s.phase.isTerminal = true → blockState t = blockState s

theorem Progress.trans {s t u : State} (hst : Progress s t) (htu : Progress t u) : Progress s u where
  phase_le := hst.phase_le.trans htu.phase_le
  count_le := hst.count_le.trans htu.count_le
  taken := by
    have h1 := hst.count_le
    have h2 := htu.count_le
    have h3 := hst.taken
    have h4 := htu.taken
    omega
  ended hs := by
    have hb := hst.ended hs
    have hp : t.phase = s.phase := (congrArg State.phase hb :)
    exact (htu.ended (hp ▸ hs)).trans hb

/-- States equal but for the model's own fields (logs 1, 2, 4). -/
theorem Progress.of_blockState_eq {s t : State} (h : blockState t = blockState s) : Progress s t := by
  have hp : t.phase = s.phase := (congrArg State.phase h :)
  have hc : t.count = s.count := (congrArg State.count h :)
  have hpos : t.pos = s.pos := (congrArg State.pos h :)
  exact ⟨by rw [hp], by rw [hc], by simp [hc, hpos], fun _ => h⟩

theorem Progress.refl (s : State) : Progress s s := .of_blockState_eq rfl

theorem progress_withResult (r : OpResult) (s : State) : Progress s (withResult r s) := .of_blockState_eq rfl

theorem progress_feed (c : List Byte) {s : State} (hr : s.phase.isTerminal = false) :
    Progress s (feed c s) where
  phase_le := le_rfl
  count_le := le_rfl
  taken := by simp
  ended hs := by simp [hr] at hs

theorem three_le_code {p : Phase} (hp : p.isTerminal = true) : 3 ≤ p.code.toNat := by
  cases p <;> simp_all [Phase.isTerminal, Phase.code]

theorem progress_terminate {p : Phase} (o : ScanResult) {s : State} (hp : p.isTerminal = true)
    (hr : s.phase.isTerminal = false) : Progress s (terminate p o s) where
  phase_le := (code_le_three hr).trans (three_le_code hp)
  count_le := le_rfl
  taken := by simp
  ended hs := by simp [hr] at hs

theorem count_add_one_toNat {c : BitVec 32} (h : c ≠ 0xFFFFFFFF#32) : (c + 1).toNat = c.toNat + 1 := by
  have hlast := mt count_eq_last_iff.2 h
  have hlt := c.isLt
  rw [count_add_one, BitVec.toNat_ofNat, Nat.mod_eq_of_lt (by omega)]

/-! ## Steps -/

theorem progress_of_moved {s t : State} (h : stepOfPhase s = .next (.moved t)) : Progress s t := by
  obtain ⟨n, ph, cm, ct, -, rfl, -, hr, -, hm⟩ := stepOfPhase_moved h
  have hrun : ¬ s.phase.isTerminal = true := by simp [hr]
  rcases hm with ⟨hlt, rfl⟩ | ⟨hp, rfl, h96, hlast, rfl⟩
  · exact ⟨hlt.le, le_rfl, by simp, fun hs => absurd hs hrun⟩
  · have hc := count_add_one_toNat hlast
    exact ⟨by rw [hp], by simp only [hc]; omega, by simp only [hc]; omega, fun hs => absurd hs hrun⟩

theorem progress_of_ended {s t : State} (h : stepOfPhase s = .next (.ended t)) : Progress s t := by
  rcases stepOfPhase_ended h with ⟨hp, rfl⟩ | ⟨hp, rfl⟩
  · exact progress_terminate _ rfl (by rw [hp]; rfl)
  · exact progress_terminate _ rfl (by rw [hp]; rfl)

theorem progress_of_runAlone {s t : State} (h : runAlone (stepOfPhase s) s = .next t) : Progress s t := by
  obtain ⟨o, ho, rfl⟩ := runAlone_eq_next.1 h
  cases o with
  | moved u => exact (progress_of_moved ho).trans (progress_withResult _ u)
  | wait => exact progress_withResult _ s
  | ended u => exact (progress_of_ended ho).trans (progress_withResult _ u)

theorem progress_of_advance : ∀ s t : State, advance s = .next t → Progress s t := by
  refine advance_induction (P := fun s a => ∀ t, a = .next t → Progress s t) ?wait ?ended ?refused ?moved
  case wait =>
    rintro s - _ ⟨⟩
    exact .refl s
  case ended =>
    rintro s _ h _ ⟨⟩
    exact progress_of_ended h
  case refused =>
    rintro s r - _ ⟨⟩
  case moved =>
    intro s t h ih u hu
    exact (progress_of_moved h).trans (ih u hu)

/-! ## The operations -/

theorem progress_of_runPhaseStep {s t : State} (h : runPhaseStep s = .next t) : Progress s t := by
  unfold runPhaseStep at h
  split at h
  · cases h
    exact .refl s
  · exact progress_of_runAlone h

theorem progress_of_step {i : Instr} {s t : State}
    (hi : i = .stepId3 ∨ i = .stepFirst ∨ i = .stepVbr ∨ i = .stepScan) (h : exec i s = .next t) :
    Progress s t := by
  obtain ⟨p, hx⟩ := exec_of_isStep hi
  rw [hx] at h
  split at h
  · exact progress_of_runAlone h
  · cases h

theorem progress_of_terminate {p : EndPhase} {o : EndOutcome} {s t : State}
    (h : exec (.terminate p o) s = .next t) : Progress s t := by
  rw [exec, execTerminate] at h
  split at h
  · cases h
  · cases h
    exact progress_terminate _ (by cases p <;> rfl) (Bool.eq_false_of_not_eq_true ‹_›)

theorem progress_of_push {c : List Byte} {s t : State} (h : exec (.push c) s = .next t) : Progress s t := by
  cases hr : s.phase.isTerminal with
  | true =>
    rw [exec_push_of_terminal c hr] at h
    cases h
    exact .refl s
  | false => exact (progress_feed c hr).trans (progress_of_advance _ t ((exec_push_eq_next hr).1 h).2)

/-- EOS and SRCERR: nothing, or TERMINATE in a running scan (R183 to R185). -/
theorem progress_of_unlessEnded {p : Phase} {o : State → ScanResult} {s t : State} (hp : p.isTerminal = true)
    (h : unlessEnded (fun s => .next (terminate p (o s) s)) s = .next t) : Progress s t := by
  unfold unlessEnded at h
  split at h
  · cases h
    exact .refl s
  · cases h
    exact progress_terminate _ hp (Bool.eq_false_of_not_eq_true ‹_›)

/-- No operation but RESET takes anything back. -/
theorem progress_of_exec {i : Instr} {s t : State} (hi : i ≠ .reset) (h : exec i s = .next t) :
    Progress s t := by
  have hunit (hu : isStreamUnit i = true) : Progress s t :=
    progress_of_runPhaseStep (exec_of_isStreamUnit hu s ▸ h)
  cases i with
  | reset => exact absurd rfl hi
  | hdrValid _ | hdrInvalidFirst _ | hdrInvalidLater _ | hdrLenReservedBr0 _ | hdrLenReservedBr15 _
  | hdrLenReservedSr3 _ | id3Magic _ _ _ | vbrXing | vbrInfo => exact hunit rfl
  | syncsafe _ | hdrdec _ | hdrIsValid _ | framelen _ _ _ | vbroff _ | tagskip _ | bitrate _
  | samplerate _ =>
    cases h
    exact progress_withResult _ s
  | advance => exact progress_of_advance s t h
  | stepId3 | stepFirst | stepVbr | stepScan => exact progress_of_step (by simp) h
  | terminate p o => exact progress_of_terminate h
  | push c => exact progress_of_push h
  | eos => exact progress_of_unlessEnded (p := .done) (o := fun s => .count s.count) rfl h
  | srcerr e => exact progress_of_unlessEnded (p := .failed) (o := fun _ => .ioFailure e) rfl h
  | beatReserved =>
    cases h
    exact .refl s

/-- Settles O44: two parts of `Progress`, which every operation but RESET makes. -/
theorem phaseNeverGoesBackAndEndsHold : Obligations.PhaseNeverGoesBackAndEndsHold := fun _ _ _ hi h =>
  ⟨(progress_of_exec hi h).phase_le, (progress_of_exec hi h).ended⟩

/-- Settles O46: the two other parts of `Progress`. -/
theorem countedFramesAreConsumed : Obligations.CountedFramesAreConsumed := fun _ _ _ hi h =>
  ⟨(progress_of_exec hi h).count_le, (progress_of_exec hi h).taken⟩

end Sys2Proof.Machine
end

section
/-! PROOF. FormatError arises where the first header is judged, and nowhere else (R153, R161). -/

namespace Sys2Proof.Machine

/-- ADVANCE makes the outcome FormatError only before the first header is accepted, and counts no frame on the
way: by induction along its steps. -/
theorem formatError_of_advance : ∀ s t : State, advance s = .next t → s.outcome ≠ .formatError →
    t.outcome = .formatError → s.phase.code.toNat ≤ 1 ∧ t.phase = .failed ∧ t.count = s.count := by
  refine advance_induction (P := fun s a => ∀ t, a = .next t → s.outcome ≠ .formatError →
    t.outcome = .formatError → s.phase.code.toNat ≤ 1 ∧ t.phase = .failed ∧ t.count = s.count)
    ?wait ?ended ?refused ?moved
  case wait =>
    rintro s - _ ⟨⟩ hs ht
    exact absurd ht hs
  case ended =>
    rintro s _ h _ ⟨⟩ - ht
    rcases stepOfPhase_ended h with ⟨hp, rfl⟩ | ⟨-, rfl⟩
    · exact ⟨by rw [hp]; decide, rfl, rfl⟩
    · cases ht
  case refused =>
    rintro s r - _ ⟨⟩
  case moved =>
    intro s t h ih u hu hs hue
    obtain ⟨n, ph, cm, ct, -, rfl, -, -, -, hm⟩ := stepOfPhase_moved h
    obtain ⟨hle, hfailed, hcount⟩ := ih u hu hs hue
    rcases hm with ⟨hlt, rfl⟩ | ⟨-, rfl, -⟩
    · exact ⟨hlt.le.trans hle, hfailed, hcount⟩
    · simp [Phase.code] at hle

/-- Settles O47: of the events PUSH alone runs ADVANCE, and the others set no such outcome. -/
theorem formatErrorOnlyFromTheFirstHeader : Obligations.FormatErrorOnlyFromTheFirstHeader := by
  intro i s t hi h hs ht
  cases hr : s.phase.isTerminal with
  | true =>
    have hhold : i ≠ .reset → t.outcome = s.outcome := fun hne =>
      (congrArg State.outcome ((progress_of_exec hne h).ended hr) :)
    by_cases hreset : i = .reset
    · subst hreset
      cases h
      cases ht
    · exact absurd ((hhold hreset).symm.trans ht) hs
  | false =>
    cases i with
    | push c =>
      obtain ⟨hle, hfailed, hcount⟩ := formatError_of_advance _ t ((exec_push_eq_next hr).1 h).2 hs ht
      exact ⟨⟨c, rfl⟩, early_of_code_le_one hle, hfailed, hcount⟩
    | reset =>
      cases h
      cases ht
    | eos =>
      rw [exec_eos_of_running hr] at h
      cases h
      cases ht
    | srcerr e =>
      have hx : exec (.srcerr e) s = .next (endWithIoFailure e s) := if_neg (by simp [hr])
      rw [hx] at h
      cases h
      cases ht
    | beatReserved =>
      cases h
      exact absurd ht hs
    | _ => cases hi

end Sys2Proof.Machine
end

section
/-! PROOF. Streams of whole frames (R163): their result frame by frame, bounded by the count alone (R23), with a
marker frame or an ID3v2 tag before them. -/

namespace Sys2Proof.Machine

/-- A run of SCAN has the result of its stream's bytes from the reset block (R192). -/
theorem resultOf_scanRun (cs : List (List Byte)) {s : State} (hc : s.params.bufCap = none) :
    resultOf (runAll (scanRun cs) s) = resultAtEos (feed cs.flatten (resetBlock s)) := by
  rw [runAll_scanRun cs s hc, resultAtEos]

/-! ## Whole frames -/

theorem IsWholeFrame.length_ge {f : List Byte} (hf : IsWholeFrame f) : 96 ≤ f.length := by
  obtain ⟨-, -, hlen⟩ := hf
  exact (framelenOf_bounds hlen).1

/-- A buffer that begins with a whole frame has its header at the front. -/
theorem IsWholeFrame.headerOf_eq {f : List Byte} (hf : IsWholeFrame f) (rest : List Byte) :
    headerOf (f ++ rest) = headerOf f :=
  headerOf_append (by have := hf.length_ge; omega)

/-- In phase ScanningFrames a whole frame at the front is consumed and counted (R155). -/
theorem stepOfPhase_of_wholeFrame {s : State} {f rest : List Byte} (hp : s.phase = .scanningFrames)
    (hb : s.buf = f ++ rest) (hf : IsWholeFrame f) (hc : s.count.toNat < 2 ^ 32 - 1) :
    stepOfPhase s =
      .next (.moved { s with buf := rest, pos := s.pos + f.length, count := s.count + 1 }) := by
  have hh := hf.headerOf_eq rest
  obtain ⟨h4, hv, hlen⟩ := hf
  rw [← hh, ← hb] at hv hlen
  have hle : f.length ≤ s.buf.length := by rw [hb, List.length_append]; omega
  have hrest : s.buf.drop f.length = rest := by rw [hb, List.drop_left]
  rw [stepOfPhase_scanningFrames hp, stepScan_of_valid (h4.trans hle) hv, scanFrame_of_whole hlen hle hc, hrest]

/-- In phase ScanningFrames whole frames and nothing else are all counted, as long as the count can hold them: by
induction on the frames, one a round. -/
theorem resultAtEos_frames (frames : List (List Byte)) : ∀ s : State, s.phase = .scanningFrames →
    s.buf = frames.flatten → (∀ f ∈ frames, IsWholeFrame f) → s.count.toNat + frames.length < 2 ^ 32 →
    resultAtEos s = .next (.count (BitVec.ofNat 32 (s.count.toNat + frames.length))) := by
  induction frames with
  | nil =>
    intro s hp hb _ _
    have hw : stepOfPhase s = .next .wait := by
      rw [stepOfPhase_scanningFrames hp, stepScan_eq, if_pos (by simp [hb])]
    rw [resultAtEos_of_wait (by rw [hp]; rfl) hw]
    simp
  | cons f frames ih =>
    intro s hp hb hall hc
    obtain ⟨hf, hframes⟩ := List.forall_mem_cons.1 hall
    rw [List.length_cons] at hc
    have hcount : (s.count + 1).toNat = s.count.toNat + 1 :=
      count_add_one_toNat (mt count_eq_last_iff.1 (by omega))
    rw [resultAtEos_of_moved (stepOfPhase_of_wholeFrame hp hb hf (by omega)),
      ih _ (by exact hp) rfl hframes (by simp only [hcount]; omega)]
    simp only [hcount, List.length_cons, Nat.add_assoc, Nat.add_comm 1]

/-- The counting of whole frames that begins with the count at 0. -/
theorem resultAtEos_frames_zero {s : State} {frames : List (List Byte)} (hp : s.phase = .scanningFrames)
    (hb : s.buf = frames.flatten) (hall : ∀ f ∈ frames, IsWholeFrame f) (hc : s.count = 0)
    (hbound : frames.length < 2 ^ 32) :
    resultAtEos s = .next (.count (BitVec.ofNat 32 frames.length)) := by
  have h := resultAtEos_frames frames s hp hb hall (by simpa [hc] using hbound)
  simpa [hc] using h

/-! ## The first frame -/

/-- A valid header is no ID3v2 magic: its first byte is 0xFF (R82, R84). -/
theorem startsWithId3_of_hdrvalid {buf : List Byte} (hv : hdrvalid (headerOf buf) = true) :
    startsWithId3 buf = false := by
  have hb : byteAt buf 0 = 0xFF := by
    have hfirst := (hdrvalid_iff_bytes.1 hv).1
    rwa [headerOf, wordBytes_be32] at hfirst
  cases buf with
  | nil => rfl
  | cons b bs =>
    obtain rfl : b = 0xFF := hb
    simp [startsWithId3, id3MagicBytes]

/-- Without a tag the first header is judged at the stream's start (R152). -/
theorem stepOfPhase_of_no_id3 {s : State} (hp : s.phase = .awaitingId3) (h10 : 10 ≤ s.buf.length)
    (hm : startsWithId3 s.buf = false) :
    stepOfPhase s = .next (.moved { s with phase := .awaitingFirstFrameHeader }) := by
  rw [stepOfPhase_awaitingId3 hp, stepId3_eq, if_neg (Nat.not_lt.2 h10), if_neg (by simp [hm])]

/-- A stream that begins with a valid header comes to the VBR decision whole (R152, R153). -/
theorem resultAtEos_of_valid_start {s : State} (hp : s.phase = .awaitingId3) (h10 : 10 ≤ s.buf.length)
    (hv : hdrvalid (headerOf s.buf) = true) :
    resultAtEos s =
      resultAtEos (acceptFirst (headerOf s.buf) { s with phase := .awaitingFirstFrameHeader }) := by
  rw [resultAtEos_of_moved (stepOfPhase_of_no_id3 hp h10 (startsWithId3_of_hdrvalid hv))]
  refine resultAtEos_of_moved ?_
  rw [stepOfPhase_awaitingFirstFrameHeader rfl]
  exact stepFirst_of_valid (show 4 ≤ s.buf.length by omega) hv

/-- Without a VBR tag in the first frame, that frame is counted with the rest (R154). -/
theorem resultAtEos_of_no_tag {s : State} {frames : List (List Byte)} (hp : s.phase = .awaitingVbrDecision)
    (hb : s.buf = frames.flatten) (hall : ∀ f ∈ frames, IsWholeFrame f) (hne : frames ≠ [])
    (ht : vbrTagAt (vbroff s.firstChmode) s.buf = false) (hc : s.count = 0)
    (hbound : frames.length < 2 ^ 32) :
    resultAtEos s = .next (.count (BitVec.ofNat 32 frames.length)) := by
  have hl : vbroff s.firstChmode + 12 ≤ s.buf.length := by
    obtain ⟨f, rest, rfl⟩ := List.exists_cons_of_ne_nil hne
    have h96 := (hall f (List.mem_cons_self ..)).length_ge
    have hoff := vbroff_le s.firstChmode
    rw [hb, List.flatten_cons, List.length_append]
    omega
  have hs : stepOfPhase s = .next (.moved { s with phase := .scanningFrames }) := by
    rw [stepOfPhase_awaitingVbrDecision hp, stepVbr_of_no_tag hl (by simp [ht])]
  rw [resultAtEos_of_moved hs]
  exact resultAtEos_frames_zero rfl hb hall hc hbound

/-- A whole marker frame is not counted (R154). -/
theorem resultAtEos_of_marker {s : State} {marker : List Byte} {frames : List (List Byte)}
    (hp : s.phase = .awaitingVbrDecision) (hb : s.buf = marker ++ frames.flatten) (hm : IsWholeFrame marker)
    (ht : vbrTagAt (vbroff s.firstChmode) marker = true) (hall : ∀ f ∈ frames, IsWholeFrame f)
    (hc : s.count = 0) (hbound : frames.length < 2 ^ 32) :
    resultAtEos s = .next (.count (BitVec.ofNat 32 frames.length)) := by
  have h96 := hm.length_ge
  have hh := hm.headerOf_eq frames.flatten
  obtain ⟨-, -, hlen⟩ := hm
  have hoff := vbroff_le s.firstChmode
  rw [← vbrTagAt_append (c := frames.flatten) (by omega), ← hb] at ht
  rw [← hh, ← hb] at hlen
  have hle : marker.length ≤ s.buf.length := by rw [hb, List.length_append]; omega
  have hs : stepOfPhase s = .next (.moved { s with
      buf := s.buf.drop marker.length, pos := s.pos + marker.length, phase := .scanningFrames }) := by
    rw [stepOfPhase_awaitingVbrDecision hp, stepVbr_of_tag (by omega) ht, skipMarker_of_whole hlen hle]
  rw [resultAtEos_of_moved hs]
  exact resultAtEos_frames_zero rfl (by simp [hb]) hall hc hbound

/-! ## The three streams of R163 -/

theorem length_flatten_of_forall {frames : List (List Byte)} {l : Nat} (h : ∀ f ∈ frames, f.length = l) :
    frames.flatten.length = frames.length * l := by
  rw [List.length_flatten, List.sum_eq_card_nsmul (frames.map List.length) l (by simpa using h),
    List.length_map, smul_eq_mul]

/-- Settles O58: each frame is whole, so the first one is passed on to be counted with the rest. -/
theorem constantBitrateStreamCounts : Obligations.ConstantBitrateStreamCounts := by
  intro s h l frames cs hcap hv hlen hne hbound hframes hnotag hflat
  have hwhole : ∀ f ∈ frames, IsWholeFrame f ∧ headerOf f = h := by
    intro f hf
    obtain ⟨rfl, hfront⟩ := hframes f hf
    obtain ⟨h4, rfl⟩ := take4_eq_wordBytes.1 hfront
    exact ⟨⟨h4, hv, hlen⟩, rfl⟩
  have htotal : cs.flatten.length = frames.length * l := by
    rw [hflat, length_flatten_of_forall fun f hf => (hframes f hf).1]
  have h96 := (framelenOf_bounds hlen).1
  refine ⟨htotal, ?_⟩
  rw [htotal, Nat.mul_div_cancel _ (by omega), resultOf_scanRun cs hcap]
  have hhead : headerOf frames.flatten = h := by
    obtain ⟨f, rest, rfl⟩ := List.exists_cons_of_length_pos hne
    obtain ⟨hf, rfl⟩ := hwhole f (List.mem_cons_self ..)
    exact hf.headerOf_eq rest.flatten
  subst hhead
  have h10 : 10 ≤ frames.flatten.length := by
    rw [← hflat, htotal]
    exact le_trans (by omega) (Nat.le_mul_of_pos_left l hne)
  rw [hflat, resultAtEos_of_valid_start (s := feed frames.flatten (resetBlock s)) rfl h10 hv]
  exact resultAtEos_of_no_tag rfl rfl (fun f hf => (hwhole f hf).1) (List.ne_nil_of_length_pos hne) hnotag rfl
    hbound

/-- Settles O60: the marker frame is skipped whole, and the frames after it are counted. -/
theorem markerFrameIsNotCounted : Obligations.MarkerFrameIsNotCounted := by
  intro s marker frames cs hcap hm ht hall hbound hflat
  have h96 := hm.length_ge
  have hh := hm.headerOf_eq frames.flatten
  have hv : hdrvalid (headerOf (marker ++ frames.flatten)) = true := by
    obtain ⟨-, hv, -⟩ := hm
    rwa [hh]
  have h10 : 10 ≤ (marker ++ frames.flatten).length := by rw [List.length_append]; omega
  rw [← hh] at ht
  rw [resultOf_scanRun cs hcap, hflat,
    resultAtEos_of_valid_start (s := feed (marker ++ frames.flatten) (resetBlock s)) rfl h10 hv]
  exact resultAtEos_of_marker rfl rfl hm ht hall rfl hbound

/-- A whole tag at the stream's start is skipped, whatever its version and its flags (R84, R152). -/
theorem stepOfPhase_of_id3Tag {s : State} {v : BitVec 16} {f : Byte} {z : Bytes4} {body stream : List Byte}
    (hp : s.phase = .awaitingId3) (hb : s.buf = id3HeaderBytes v f z ++ body ++ stream)
    (hbody : body.length = (syncsafe z).toNat) :
    stepOfPhase s = .next (.moved { s with
      buf := stream, pos := s.pos + tagskip z, phase := .awaitingFirstFrameHeader }) := by
  have hfront : tagAtFront v f z s = true := beq_iff_eq.2 (by rw [hb]; rfl)
  obtain ⟨h10, hm, hz⟩ := id3_of_tagAtFront hfront
  have hskip : tagskip z = (id3HeaderBytes v f z ++ body).length := by
    rw [List.length_append, hbody]
    rfl
  have hle : tagskip z ≤ s.buf.length := by
    rw [hskip, hb, List.length_append (bs := stream)]
    exact Nat.le_add_right _ _
  have hrest : s.buf.drop (tagskip z) = stream := by
    rw [hskip, hb, List.drop_left]
  rw [stepOfPhase_awaitingId3 hp, stepId3_eq, if_neg (Nat.not_lt.2 h10), if_pos hm, hz,
    if_neg (Nat.not_lt.2 hle), hrest]

/-- Settles O59: with the tag skipped, or with none there, the first header is judged over the same bytes. -/
theorem tagMakesNoDifference : Obligations.TagMakesNoDifference := by
  intro s v f z body stream cs ds hcap hbody hm h10 hbound hcs hds
  have htagged : resultAtEos (feed cs.flatten (resetBlock s)) = .next (scanFrames stream) := by
    rw [resultAtEos_of_moved (stepOfPhase_of_id3Tag (s := feed cs.flatten (resetBlock s)) rfl hcs hbody)]
    exact resultAtEos_first rfl rfl hbound
  have hplain : resultAtEos (feed stream (resetBlock s)) = .next (scanFrames stream) := by
    rw [resultAtEos_of_moved (stepOfPhase_of_no_id3 (s := feed stream (resetBlock s)) rfl h10 hm)]
    exact resultAtEos_first rfl rfl hbound
  rw [resultOf_scanRun cs hcap, resultOf_scanRun ds hcap, hds, htagged, hplain]

end Sys2Proof.Machine
end

section
/-! PROOF. The events of the source one by one (R181 to R186), and what a port cycle carries (R190, R191, R208). -/

namespace Sys2Proof.Machine

/-! ## RESET, EOS and SRCERR -/

theorem exec_reset (s : State) : exec .reset s = .next (resetBlock s) := rfl

theorem exec_srcerr_of_terminal {s : State} (e : Err) (h : s.phase.isTerminal = true) :
    exec (.srcerr e) s = .next s := if_pos h

theorem exec_srcerr_of_running {s : State} (e : Err) (h : s.phase.isTerminal = false) :
    exec (.srcerr e) s = .next (endWithIoFailure e s) := if_neg (by simp [h])

/-- Settles O24: the free value that RESET leaves in `first_chmode` is one such value. -/
theorem resetResult : Obligations.ResetResult := fun s =>
  ⟨Config.freeChmode s.freeCtr, exec_reset s⟩

/-- Settles O28: EOS in a terminal phase and in a running scan. -/
theorem eosResult : Obligations.EosResult := fun _ =>
  ⟨exec_eos_of_terminal, exec_eos_of_running⟩

/-- Settles O29: SRCERR in a terminal phase and in a running scan. -/
theorem srcerrResult : Obligations.SrcerrResult := fun e _ =>
  ⟨exec_srcerr_of_terminal e, exec_srcerr_of_running e⟩

/-- Settles O30: the terminal case of the three events. -/
theorem lateEventsChangeNothing : Obligations.LateEventsChangeNothing := fun _ c e ht =>
  ⟨exec_push_of_terminal c ht, exec_eos_of_terminal ht, exec_srcerr_of_terminal e ht⟩

/-! ## PUSH -/

/-- Within the capacity PUSH in a running scan is ADVANCE with the chunk behind the buffer (R182). -/
theorem exec_push_of_fits {c : List Byte} {s : State} (hr : s.phase.isTerminal = false)
    (hc : fitsCap s.params (s.buf.length + c.length) = true) : exec (.push c) s = advance (feed c s) := by
  have happ : append c s = .next (feed c s) := append_eq_next.2 ⟨hc, rfl⟩
  rw [exec_push_eq c hr, happ, andThen_next]

/-- Settles O25: PUSH in a terminal phase, and within the capacity in a running scan. -/
theorem pushAppendsThenAdvances : Obligations.PushAppendsThenAdvances := fun c _ =>
  ⟨exec_push_of_terminal c, exec_push_of_fits⟩

/-- Settles O26: ADVANCE completes in a settled state with the chunk behind the buffer. -/
theorem pushCompletesSettled : Obligations.PushCompletesSettled := by
  intro c s hr hc hb
  rw [exec_push_of_fits hr hc]
  exact advanceCompletesSettled (feed c s) (by simpa using hb)

/-- Settles O31: in a terminal phase PUSH does nothing, and in a waiting state the empty chunk leaves ADVANCE where
it is. -/
theorem emptyChunkChangesNothing : Obligations.EmptyChunkChangesNothing := by
  intro s hw hwf
  cases hr : s.phase.isTerminal with
  | true => exact exec_push_of_terminal [] hr
  | false =>
    calc exec (.push []) s
        = advance (feed [] s) := exec_push_of_fits hr hwf
      _ = .next s := by rw [feed_nil, advance_of_wait (stepOfPhase_wait_iff.2 hw)]

/-! ## Port cycles -/

theorem decode_cycle_of_rst {p : PortCycle} (hr : p.rst = true) : decode (.cycle p) = .instr .reset := if_pos hr

theorem decode_cycle_of_idle {p : PortCycle} (hr : p.rst = false) (hv : p.inValid = false) :
    decode (.cycle p) = .rejected .idleCycle := by
  simp [decode, decodeCycle, hr, hv]

/-- A cycle that transfers a beat is known by the beat (R190). -/
theorem decode_cycle_of_beat {p : PortCycle} {k : BitVec 2} {i : Instr} (hr : p.rst = false)
    (hv : p.inValid = true) (hk : p.inKind = k)
    (hd : decode (.cycle (beatCycle k p.inData p.inErr)) = .instr i) : decode (.cycle p) = .instr i := by
  have hp : p = beatCycle k p.inData p.inErr := by
    rw [beatCycle, ← hr, ← hv, ← hk]
  rwa [hp]

/-- Settles O38: the cycle decodes to the event of its beat, or to none, and the step runs it. -/
theorem portCycleIsItsEvent : Obligations.PortCycleIsItsEvent := by
  intro s p rest h
  exact ⟨fun hr => step_of_decoded h (decode_cycle_of_rst hr),
    fun hr hv => step_of_idleCycle h (decode_cycle_of_idle hr hv),
    fun hr hv hk => step_of_decoded h (decode_cycle_of_beat hr hv hk rfl),
    fun hr hv hk => step_of_decoded h (decode_cycle_of_beat hr hv hk rfl),
    fun hr hv hk => step_of_decoded h (decode_cycle_of_beat hr hv hk rfl),
    fun hr hv hk => ⟨step_of_decoded h (decode_cycle_of_beat hr hv hk rfl), rfl⟩⟩

/-- Settles O55: the beats are the chunk cut into single bytes, and cutting it makes no difference. -/
theorem chunkAsBeats : Obligations.ChunkAsBeats := by
  refine ⟨fun b e => rfl, fun s c hc hw => ?_⟩
  have hflat : (c.map fun b => [b]).flatten = [c].flatten := by
    rw [← List.flatMap_def, List.flatMap_singleton', List.flatten_singleton]
  calc pushAll (c.map fun b => [b]) s
      = pushAll [c] s := chunkBoundariesDoNotMatter s _ _ hc hw hflat
    _ = exec (.push c) s := runAll_singleton (.push c) s

end Sys2Proof.Machine
end

section
/-! PROOF. The end of a scan as the source sees it: `stop` and the outcome within a scan (R26, R188), and the outcome
of a run that EOS or SRCERR ends (R192). -/

namespace Sys2Proof.Machine

/-! ## The stop signal -/

/-- Settles O45: an ended scan is held by every event but RESET, and in a running scan the invariant before and after
ties `stop` and the outcome to the phase. -/
theorem stopRisesWithTheOutcome : Obligations.StopRisesWithTheOutcome := by
  intro i s t hi hne hs h
  constructor
  · intro hstop
    have hblock := (progress_of_exec hne h).ended (hs.stop_eq ▸ hstop)
    have hstops : t.stop = s.stop := (congrArg State.stop hblock :)
    exact ⟨hstops.trans hstop, (congrArg State.outcome hblock :)⟩
  · intro hstop
    have ht := blockInv_of_exec_event hi hs h
    refine ⟨?_, hs.noResult_iff.2 (hs.stop_eq ▸ hstop)⟩
    rw [ht.stop_eq, ne_eq, ht.noResult_iff, Bool.not_eq_false]

/-! ## Runs that the source ends -/

/-- A scan that has ended has an outcome (R25). -/
def EndHasOutcome (s : State) : Prop := s.phase.isTerminal = true → s.outcome ≠ .noResult

/-- PUSH ends a scan only with an outcome (R200). -/
theorem endHasOutcome_of_push {c : List Byte} {s t : State} (hs : EndHasOutcome s)
    (h : exec (.push c) s = .next t) : EndHasOutcome t := by
  cases hr : s.phase.isTerminal with
  | true =>
    rw [exec_push_of_terminal c hr] at h
    cases h
    exact hs
  | false =>
    intro ht
    obtain ⟨-, -, ho | ho⟩ := (advanceFrame_of_push hr h).ended ht
    · simp [ho]
    · simp [ho]

theorem endHasOutcome_of_pushAll (cs : List (List Byte)) {s t : State} (hs : EndHasOutcome s)
    (h : pushAll cs s = .next t) : EndHasOutcome t := by
  induction cs generalizing s with
  | nil =>
    cases h
    exact hs
  | cons c cs ih =>
    obtain ⟨u, hu, hrest⟩ := andThen_eq_next.1 h
    exact ih (endHasOutcome_of_push hs hu) hrest

/-- One operation more at the end of a run. -/
theorem runAll_append_singleton {is : List Instr} {s t : State} (i : Instr) (h : runAll is s = .next t) :
    runAll (is ++ [i]) s = exec i t := by
  rw [runAll_append, h, andThen_next, runAll_singleton]

theorem resultOf_exec_eos (t : State) :
    resultOf (exec .eos t) = .next (if t.phase.isTerminal then t.outcome else .count t.count) := by
  cases ht : t.phase.isTerminal with
  | true => rw [exec_eos_of_terminal ht]; rfl
  | false => rw [exec_eos_of_running ht]; rfl

theorem resultOf_exec_srcerr (e : Err) (t : State) :
    resultOf (exec (.srcerr e) t) = .next (if t.phase.isTerminal then t.outcome else .ioFailure e) := by
  cases ht : t.phase.isTerminal with
  | true => rw [exec_srcerr_of_terminal e ht]; rfl
  | false => rw [exec_srcerr_of_running e ht]; rfl

/-- Settles O57: the last event is EOS or SRCERR in the state the chunks leave, whose scan, if ended, has an
outcome. -/
theorem endedRunHasItsOutcome : Obligations.EndedRunHasItsOutcome := by
  intro s t cs e h
  have hend : EndHasOutcome t := endHasOutcome_of_pushAll cs (s := resetBlock s) nofun h
  rw [scanErrRun, scanRun, runAll_append_singleton _ h, runAll_append_singleton _ h, resultOf_exec_srcerr,
    resultOf_exec_eos]
  refine ⟨rfl, rfl, fun hnone => ?_⟩
  have ho := Host.Outcome.next.inj hnone
  split at ho
  · exact hend ‹_› ho
  · cases ho

end Sys2Proof.Machine
end

section
/-! PROOF. TERMINATE from a running scan (R205). -/

namespace Sys2Proof.Machine

theorem exec_terminate_of_running {s : State} (p : EndPhase) (o : EndOutcome) (h : s.phase.isTerminal = false) :
    exec (.terminate p o) s = .next (terminate (endPhase p) (endResult o s) s) := by
  simp [exec, execTerminate, h]

/-- Settles O19: the four writes are those of `terminate`, with the phase and the outcome of the operands. -/
theorem terminateResult : Obligations.TerminateResult := by
  intro p o s h
  rw [exec_terminate_of_running p o h]
  rfl

end Sys2Proof.Machine
end

section
/-! PROOF. Operations out of place (log 11): a step outside the phase that selects it (R150) and TERMINATE in a
terminal phase (R205) are refused. -/

namespace Sys2Proof.Machine

theorem runInPhase_of_ne {p : Phase} (f : State → Res StepOut) {s : State} (h : s.phase ≠ p) :
    runInPhase p f s = .refused .stepNotSelected := if_neg h

theorem exec_terminate_of_terminal {s : State} (p : EndPhase) (o : EndOutcome) (h : s.phase.isTerminal = true) :
    exec (.terminate p o) s = .refused .alreadyEnded := if_pos h

/-- Settles O20: each of the four step operations is `runInPhase` of its own phase. -/
theorem operationsOutOfPlaceRefused : Obligations.OperationsOutOfPlaceRefused := by
  intro s
  exact ⟨runInPhase_of_ne stepId3, runInPhase_of_ne stepFirst, runInPhase_of_ne stepVbr,
    runInPhase_of_ne stepScan, fun h p o => exec_terminate_of_terminal p o h⟩

end Sys2Proof.Machine
end
